-- ==== Sys2Proof/Word.lean ====
section
/-! DEFINITION. The widths of the block's values (spec 00_scope.md R9): a channel value, start code,
ring byte and character is 8 bits, a channel address 10 bits, the address input 9 bits, a host
command word 32 bits. -/

namespace Sys2Proof

/-- A channel value, start code, ring-buffer byte or character data field (R9): 8 bits unsigned. -/
abbrev Byte := BitVec 8

/-- A channel address or slot number (R9): 10 bits. -/
abbrev Addr := BitVec 10

/-- The device address input (R9): 9 bits. -/
abbrev Pins := BitVec 9

/-- One word of an instruction image; a host command word is 32 bits (R98). -/
abbrev Word := BitVec 32

end Sys2Proof
end

