-- ==== Sys2Proof/Config.lean ====
section
/-! DEFINITION. What an implementation fixes (spec 00_scope.md R7, R8): the source's literals as named
constants, the OPEN parameters as a record of plain data, and the free values the spec leaves
unspecified. -/

namespace Sys2Proof

/-- `P_ROLE` (R4): which of the two roles the block operates in. -/
inductive Role where
  | controller
  | device
  deriving DecidableEq, Repr

/-- The three timeout counters (R44). -/
inductive CounterId where
  | red
  | green
  | noData
  deriving DecidableEq, Repr

/-- `P_CHANGE_CTR` (R8): the counter that is the recent-change window, red or green. -/
inductive ChangeCtr where
  | red
  | green
  deriving DecidableEq, Repr, Inhabited

/-- What one expiry may do to the logical activity indicator (R302: `E_EXPIRE` may write `actLed` and
nothing else of the block): all four functions of one bit (log 5). -/
inductive LedUpdate where
  | keep
  | turnOff
  | turnOn
  | toggle
  deriving DecidableEq, Repr, Inhabited

/-- The OPEN parameters that a rule reads (R8), as plain data. `State` holds this record and no step
writes it, so a statement about every state holds for every choice of them (log 2). -/
structure Params where
  /-- `P_ROLE`. -/
  role : Role
  /-- `P_T_NODATA`: ticks the no-data counter is armed with. -/
  tNoData : Nat
  /-- `P_T_CHANGE`: ticks the recent-change window is armed with. -/
  tChange : Nat
  /-- `P_CHANGE_CTR`. -/
  changeCtr : ChangeCtr
  /-- `E_EXPIRE(red)`, as it acts on `actLed`. -/
  expireRed : LedUpdate
  /-- `E_EXPIRE(green)`, as it acts on `actLed`. -/
  expireGreen : LedUpdate
  /-- `E_EXPIRE(noData)`, as it acts on `actLed`. -/
  expireNoData : LedUpdate
  /-- `P_MAX_AT_RESET`, in 1..512. -/
  maxAtReset : Addr
  /-- `P_OUT_AT_RESET`. -/
  outAtReset : Bool
  deriving DecidableEq, Repr

namespace Config

/-- `N_ADDR` (R8): channel addresses are 1..512. -/
def nAddr : Nat := 512

/-- `N_SLOT` (R8): the channel frame has slots 0..512. -/
def nSlot : Nat := 513

/-- `P_LIST_CAP` (R8): capacity of the discovered-address list. -/
def listCap : Nat := 10

/-- `P_RING_SIZE` (R8): size of the ring array. The ring indices are 8 bits, so they are taken modulo
this size (R9). -/
def ringSize : Nat := 256

/-- `W_ADDR_PINS` (R8). -/
def addrPinsWidth : Nat := 9

/-- `SC_DATA` (R8, R94). -/
def scData : Byte := 0x00

/-- `SC_POLL` (R8, R94). -/
def scPoll : Byte := 0xF0

/-- `P_NOMINAL_BAUD` (R8), bit/s. No rule of the model reads time (R364). -/
def nominalBaud : Nat := 250000

/-- `P_BREAK_MIN_US` (R8). -/
def breakMinUs : Nat := 88

/-- `P_MAB_MIN_US` (R8). -/
def mabMinUs : Nat := 8

/-- `P_POLL_SAMPLES` (R8): samples in the poll response window. -/
def pollSamples : Nat := 60

/-- `P_SAMPLE_US` (R8). -/
def sampleUs : Nat := 1

/-- `P_TICK_MS` (R8). -/
def tickMs : Nat := 1

/-- Free value behind `P_BREAK_BAUD` (R8: OPEN): an index below the largest rate R130 admits. -/
opaque breakBaudIndex : Fin 102272

/-- `P_BREAK_BAUD` (R8, R130): some rate whose Break character is low for more than
`P_BREAK_MIN_US`. No rule of the model reads it (log 22). -/
def breakBaud : Nat := breakBaudIndex.val + 1

/-- Free value behind `P_STOP_BITS` (R8: OPEN, 1 or 2). -/
opaque twoStopBits : Bool

/-- `P_STOP_BITS` (R8). No rule of the model reads it. -/
def stopBits : Nat := if twoStopBits then 2 else 1

/-- Free value: `P_T_NODATA` of the block whose reset state is `State.reset` (R8: OPEN). -/
opaque tNoData : Nat

/-- Free value: `P_T_CHANGE` of that block (R8: OPEN). -/
opaque tChange : Nat

/-- Free value: `P_CHANGE_CTR` of that block (R8: OPEN). -/
opaque changeCtr : ChangeCtr

/-- Free value: `E_EXPIRE(red)` of that block (R8: OPEN). -/
opaque expireRed : LedUpdate

/-- Free value: `E_EXPIRE(green)` of that block (R8: OPEN). -/
opaque expireGreen : LedUpdate

/-- Free value: `E_EXPIRE(noData)` of that block (R8: OPEN). -/
opaque expireNoData : LedUpdate

/-- Free value: what ring element `i` holds before anything is written to it since reset number `n`
(R47: unspecified, a draw; log 6). -/
opaque ringAtReset : Nat → Nat → Byte

/-- Free value: what list entry `i` holds before anything is written to it since reset number `n`
(R47: unspecified, a draw; log 6). -/
opaque listAtReset : Nat → Nat → Addr

/-- The parameters of the block whose reset state is `State.reset`. The role and the two reset values
are the model's own choice for that one state (DESIGN CHOICE, log 2; unsafe); the others are free
values. -/
def params : Params where
  role := .controller
  tNoData := tNoData
  tChange := tChange
  changeCtr := changeCtr
  expireRed := expireRed
  expireGreen := expireGreen
  expireNoData := expireNoData
  maxAtReset := 512
  outAtReset := false

end Config

/-- The counter a change window stands for. -/
def ChangeCtr.id : ChangeCtr → CounterId
  | .red => .red
  | .green => .green

/-- The constraint R8 puts on `P_MAX_AT_RESET`. -/
def Params.wf (p : Params) : Bool :=
  decide (1 ≤ p.maxAtReset.toNat) && decide (p.maxAtReset.toNat ≤ Config.nAddr)

/-- The `E_EXPIRE` effect of a counter on the activity indicator. -/
def Params.expire (p : Params) : CounterId → LedUpdate
  | .red => p.expireRed
  | .green => p.expireGreen
  | .noData => p.expireNoData

end Sys2Proof
end

