-- ==== Sys2Proof/Syntax.lean ====
section
/-! DEFINITION. The syntax: the four decoded formats (spec 30_encoding.md), the image of an operation
as a list of words, and one constructor of `Instr` for each row of spec/opcode_table.json (R103). -/

namespace Sys2Proof

/-- The four decoded formats of 30_encoding.md. A format is chosen by where the image comes from (the
receiver, the character after a Break, the command port, the sequencer), never by the bits. -/
inductive Format where
  /-- A received character (R92): one word, 9 bits. -/
  | rxchar
  /-- A start code (R94): one word, 8 bits. -/
  | sc
  /-- A host command (R98, R99): a header word and, for `ENQ`, its payload words. -/
  | cmd
  /-- A sequencer step code (R102): one word of 8 bits, and the operation's operands (log 9). -/
  | seq
  deriving DecidableEq, Repr

/-- The image of one operation: its format and its words, the first word first. R102 gives a step code no
place for its operands, so they stand beside the word, as naturals without a bound (R9; log 9). -/
structure Image where
  fmt : Format
  words : List Word
  operands : List Nat
  deriving DecidableEq, Repr

/-- The operation set of R103, one constructor per row of the opcode table. -/
inductive Instr where
  /-- `RX_BREAK` (R125): the received character `(0x00, 1)`. -/
  | rxBreak
  /-- `RX_STRAY_FE` (R126): a received character with a framing error and a value other than 0. -/
  | rxStrayFe (b : Byte)
  /-- `RX_DATA` (R127): a received character without a framing error. -/
  | rxData (b : Byte)
  /-- `SC_DATA` (R233): the data start code 0x00. -/
  | scData
  /-- `SC_POLL` (R234): the poll start code 0xF0. -/
  | scPoll
  /-- `SC_OTHER` (R237): any other start code. -/
  | scOther (b : Byte)
  /-- `SET a, d` (R160). -/
  | cmdSet (a : Addr) (d : Byte)
  /-- `GET a` (R161). -/
  | cmdGet (a : Addr)
  /-- `MAX a` (R162). -/
  | cmdMax (a : Addr)
  /-- `ON` (R163). -/
  | cmdOn
  /-- `OFF` (R164). -/
  | cmdOff
  /-- `POLL` (R165). -/
  | cmdPoll
  /-- `CLEAR` (R166). -/
  | cmdClear
  /-- `ENQ N, bytes` (R167); `N` is the length of the list. -/
  | cmdEnq (bytes : List Byte)
  /-- `SEND_BREAK sc` (R121). -/
  | sendBreak (sc : Byte)
  /-- `PUT_SLOT b` (R122). -/
  | putSlot (b : Byte)
  /-- `RELEASE_DE` (R123). -/
  | releaseDe
  /-- `BARE_BREAK` (R124). -/
  | bareBreak
  /-- `DATA_FRAME` (R150). -/
  | dataFrame
  /-- `CHECKPOINT` (R151). -/
  | checkpoint
  /-- `CYCLE` (R152). -/
  | cycle
  /-- `POLL_RANGE mn, mx` (R191). -/
  | pollRange (mn mx : Nat)
  /-- `DISCOVER` (R194). -/
  | discover
  /-- `FS_STEP` (R230). -/
  | fsStep
  /-- `DRAIN_ONE` (R271). -/
  | drainOne
  /-- `TICK` (R302). -/
  | tick
  /-- `RESET` (R340). -/
  | reset
  deriving DecidableEq, Repr

/-- The format of an operation (the table of R103). -/
def Instr.format : Instr → Format
  | .rxBreak | .rxStrayFe _ | .rxData _ => .rxchar
  | .scData | .scPoll | .scOther _ => .sc
  | .cmdSet _ _ | .cmdGet _ | .cmdMax _ | .cmdOn | .cmdOff | .cmdPoll | .cmdClear | .cmdEnq _ => .cmd
  | .sendBreak _ | .putSlot _ | .releaseDe | .bareBreak | .dataFrame | .checkpoint | .cycle
  | .pollRange _ _ | .discover | .fsStep | .drainOne | .tick | .reset => .seq

/-- Whether an operation exists in a role (R4, R104). -/
def Instr.existsIn (r : Role) : Instr → Bool
  | .rxBreak | .rxStrayFe _ | .rxData _ | .tick | .reset => true
  | .scData | .scPoll | .scOther _ | .bareBreak | .fsStep => decide (r = .device)
  | .cmdSet _ _ | .cmdGet _ | .cmdMax _ | .cmdOn | .cmdOff | .cmdPoll | .cmdClear | .cmdEnq _
  | .sendBreak _ | .putSlot _ | .releaseDe | .dataFrame | .checkpoint | .cycle
  | .pollRange _ _ | .discover | .drainOne => decide (r = .controller)

end Sys2Proof
end

