-- ==== Sys2Proof/WellFormed.lean ====
section
/-! DEFINITION. Which instructions are well formed: the constraints the spec puts on operands beyond
their widths. -/

namespace Sys2Proof

/-- The operand constraints of R126, R237, R99, R121 and R191. The address of `SET`, `GET` and `MAX` is
any 10-bit value: one outside 1..512 is a well-formed command that answers `ERR` (R101, R168). -/
def WellFormed : Instr → Bool
  | .rxStrayFe b => decide (b ≠ 0)
  | .scOther b => decide (b ≠ Config.scData) && decide (b ≠ Config.scPoll)
  | .cmdEnq bytes => decide (bytes.length ≤ 1023)
  | .sendBreak sc => decide (sc = Config.scData) || decide (sc = Config.scPoll)
  | .pollRange mn mx => decide (1 ≤ mn) && decide (mn ≤ mx)
  | .rxBreak | .rxData _ | .scData | .scPoll
  | .cmdSet _ _ | .cmdGet _ | .cmdMax _ | .cmdOn | .cmdOff | .cmdPoll | .cmdClear
  | .putSlot _ | .releaseDe | .bareBreak | .dataFrame | .checkpoint | .cycle
  | .discover | .fsStep | .drainOne | .tick | .reset => true

end Sys2Proof
end

