-- ==== Sys2Proof/Decode.lean ====
section
/-! DEFINITION. The decoder, total on every image and rejecting by name, and after it the encoder,
both written from the tables of spec 30_encoding.md. -/

namespace Sys2Proof

/-- Why an image stands for no operation. -/
inductive DecodeError where
  /-- An image with no word. -/
  | emptyImage
  /-- A received character, start code or step code with a bit set above its width (R92, R94, R102). -/
  | tooWide
  /-- A command with a reserved OP, 0x0 or 0x9..0xF (R100). -/
  | reservedOp
  /-- A command with a nonzero reserved field, bits 27:26 or 15:8 (R100). -/
  | reservedField
  /-- A command with a nonzero field it does not use (R98, R100). -/
  | unusedField
  /-- An image with more or fewer words or operands than its first word calls for (R99; log 9 for the
  operands). -/
  | wordCount
  /-- A step code 0x00 or 0x0E..0xFF (R102: unassigned). -/
  | unassignedCode
  deriving DecidableEq, Repr

/-! ### Fields of a command word (R98) -/

/-- `OP = w[31:28]`. -/
def cmdOp (h : Word) : BitVec 4 := h.extractLsb' 28 4

/-- The reserved bits `w[27:26]`. -/
def cmdReservedHigh (h : Word) : BitVec 2 := h.extractLsb' 26 2

/-- `A = w[25:16]`. -/
def cmdA (h : Word) : Addr := h.extractLsb' 16 10

/-- The reserved bits `w[15:8]`. -/
def cmdReservedLow (h : Word) : BitVec 8 := h.extractLsb' 8 8

/-- `D = w[7:0]`. -/
def cmdD (h : Word) : Byte := h.extractLsb' 0 8

/-- `ceil(N/4)`: the payload words of an `ENQ` of `n` bytes (R99). -/
def payloadWords (n : Nat) : Nat := (n + 3) / 4

/-- How many words a command has, from its header alone; an illegal header with OP 0x8 has its payload
words too (R99). -/
def commandLength (h : Word) : Nat :=
  if cmdOp h = 8 then 1 + payloadWords (cmdA h).toNat else 1

/-- The four bytes of a payload word, byte 0 from bits 7:0 (R99). -/
def wordBytes (w : Word) : List Byte :=
  [w.extractLsb' 0 8, w.extractLsb' 8 8, w.extractLsb' 16 8, w.extractLsb' 24 8]

/-- The first `n` bytes of a payload; the unused bytes of its last word are ignored (R99). -/
def payloadBytes (n : Nat) (ws : List Word) : List Byte :=
  (ws.flatMap wordBytes).take n

/-! ### The decoder -/

/-- A received character word (R92), first match wins: `RX_BREAK`, `RX_STRAY_FE`, `RX_DATA`. -/
def decodeRxChar (w : Word) : Except DecodeError Instr :=
  let b : Byte := w.extractLsb' 0 8
  if 512 ≤ w.toNat then .error .tooWide
  else if w = 0x100 then .ok .rxBreak
  else if w.getLsbD 8 then .ok (.rxStrayFe b)
  else .ok (.rxData b)

/-- A start code (R94). -/
def decodeStartCode (w : Word) : Except DecodeError Instr :=
  let b : Byte := w.extractLsb' 0 8
  if 256 ≤ w.toNat then .error .tooWide
  else if b = Config.scData then .ok .scData
  else if b = Config.scPoll then .ok .scPoll
  else .ok (.scOther b)

/-- A command that has no payload word. -/
def bareCommand (payload : List Word) (i : Instr) : Except DecodeError Instr :=
  if payload = [] then .ok i else .error .wordCount

/-- A host command: header and payload (R98 to R100). -/
def decodeCommand (h : Word) (payload : List Word) : Except DecodeError Instr :=
  if cmdReservedHigh h ≠ 0 ∨ cmdReservedLow h ≠ 0 then .error .reservedField
  else match (cmdOp h).toNat with
    | 1 => bareCommand payload (.cmdSet (cmdA h) (cmdD h))
    | 2 => if cmdD h ≠ 0 then .error .unusedField else bareCommand payload (.cmdGet (cmdA h))
    | 3 => if cmdD h ≠ 0 then .error .unusedField else bareCommand payload (.cmdMax (cmdA h))
    | 4 => if cmdD h ≠ 0 ∨ cmdA h ≠ 0 then .error .unusedField else bareCommand payload .cmdOn
    | 5 => if cmdD h ≠ 0 ∨ cmdA h ≠ 0 then .error .unusedField else bareCommand payload .cmdOff
    | 6 => if cmdD h ≠ 0 ∨ cmdA h ≠ 0 then .error .unusedField else bareCommand payload .cmdPoll
    | 7 => if cmdD h ≠ 0 ∨ cmdA h ≠ 0 then .error .unusedField else bareCommand payload .cmdClear
    | 8 =>
      if cmdD h ≠ 0 then .error .unusedField
      else if payload.length ≠ payloadWords (cmdA h).toNat then .error .wordCount
      else .ok (.cmdEnq (payloadBytes (cmdA h).toNat payload))
    | _ => .error .reservedOp

/-- A step code with no operand. -/
def bareStep (operands : List Nat) (i : Instr) : Except DecodeError Instr :=
  if operands = [] then .ok i else .error .wordCount

/-- A step code with one operand that is a byte. -/
def byteStep (operands : List Nat) (f : Byte → Instr) : Except DecodeError Instr :=
  match operands with
  | [n] => if 256 ≤ n then .error .tooWide else .ok (f (BitVec.ofNat 8 n))
  | _ => .error .wordCount

/-- A sequencer step code (R102) and its operands (DESIGN CHOICE, log 9: the spec gives the codes and no
place for the operands). -/
def decodeStep (code : Word) (operands : List Nat) : Except DecodeError Instr :=
  match code.toNat with
  | 0x01 => byteStep operands .sendBreak
  | 0x02 => byteStep operands .putSlot
  | 0x03 => bareStep operands .releaseDe
  | 0x04 => bareStep operands .bareBreak
  | 0x05 => bareStep operands .dataFrame
  | 0x06 => bareStep operands .checkpoint
  | 0x07 => bareStep operands .cycle
  | 0x08 =>
    match operands with
    | [mn, mx] => .ok (.pollRange mn mx)
    | _ => .error .wordCount
  | 0x09 => bareStep operands .discover
  | 0x0A => bareStep operands .fsStep
  | 0x0B => bareStep operands .drainOne
  | 0x0C => bareStep operands .tick
  | 0x0D => bareStep operands .reset
  | n => if 256 ≤ n then .error .tooWide else .error .unassignedCode

/-- The decoder: every image stands for one operation or is rejected by name. -/
def decode (im : Image) : Except DecodeError Instr :=
  match im.words with
  | [] => .error .emptyImage
  | w :: rest =>
    match im.fmt with
    | .rxchar => if rest = [] ∧ im.operands = [] then decodeRxChar w else .error .wordCount
    | .sc => if rest = [] ∧ im.operands = [] then decodeStartCode w else .error .wordCount
    | .cmd => if im.operands = [] then decodeCommand w rest else .error .wordCount
    | .seq => if rest = [] then decodeStep w im.operands else .error .wordCount

/-! ### The encoder -/

/-- A command word from its fields (R98). -/
def cmdWord (op : BitVec 4) (a : Addr) (d : Byte) : Word :=
  op ++ (0 : BitVec 2) ++ a ++ (0 : BitVec 8) ++ d

/-- A payload word from its four bytes, byte 0 in bits 7:0 (R99). -/
def packWord (b0 b1 b2 b3 : Byte) : Word := b3 ++ b2 ++ b1 ++ b0

/-- The payload words of an `ENQ` (R99); the unused bytes of the last word are 0. -/
def packPayload : List Byte → List Word
  | [] => []
  | [b0] => [packWord b0 0 0 0]
  | [b0, b1] => [packWord b0 b1 0 0]
  | [b0, b1, b2] => [packWord b0 b1 b2 0]
  | b0 :: b1 :: b2 :: b3 :: rest => packWord b0 b1 b2 b3 :: packPayload rest

/-- The word of a received character: `w[8] = fe`, `w[7:0] = b` (R92). -/
def rxWord (b : Byte) (fe : Bool) : Word := (BitVec.ofBool fe ++ b).setWidth 32

/-- The step code of a sequencer operation (R102) with its operands. -/
def stepImage (code : Byte) (operands : List Nat) : Image := ⟨.seq, [code.setWidth 32], operands⟩

/-- The words of an instruction (R92, R94, R98, R99, R102). -/
def encode : Instr → Image
  | .rxBreak => ⟨.rxchar, [rxWord 0 true], []⟩
  | .rxStrayFe b => ⟨.rxchar, [rxWord b true], []⟩
  | .rxData b => ⟨.rxchar, [rxWord b false], []⟩
  | .scData => ⟨.sc, [Config.scData.setWidth 32], []⟩
  | .scPoll => ⟨.sc, [Config.scPoll.setWidth 32], []⟩
  | .scOther b => ⟨.sc, [b.setWidth 32], []⟩
  | .cmdSet a d => ⟨.cmd, [cmdWord 1 a d], []⟩
  | .cmdGet a => ⟨.cmd, [cmdWord 2 a 0], []⟩
  | .cmdMax a => ⟨.cmd, [cmdWord 3 a 0], []⟩
  | .cmdOn => ⟨.cmd, [cmdWord 4 0 0], []⟩
  | .cmdOff => ⟨.cmd, [cmdWord 5 0 0], []⟩
  | .cmdPoll => ⟨.cmd, [cmdWord 6 0 0], []⟩
  | .cmdClear => ⟨.cmd, [cmdWord 7 0 0], []⟩
  | .cmdEnq bytes => ⟨.cmd, cmdWord 8 (BitVec.ofNat 10 bytes.length) 0 :: packPayload bytes, []⟩
  | .sendBreak sc => stepImage 0x01 [sc.toNat]
  | .putSlot b => stepImage 0x02 [b.toNat]
  | .releaseDe => stepImage 0x03 []
  | .bareBreak => stepImage 0x04 []
  | .dataFrame => stepImage 0x05 []
  | .checkpoint => stepImage 0x06 []
  | .cycle => stepImage 0x07 []
  | .pollRange mn mx => stepImage 0x08 [mn, mx]
  | .discover => stepImage 0x09 []
  | .fsStep => stepImage 0x0A []
  | .drainOne => stepImage 0x0B []
  | .tick => stepImage 0x0C []
  | .reset => stepImage 0x0D []

/-! ### The opcode table's view of a word -/

/-- The operands of zero that stand beside a step code (log 9). -/
def stepOperands (code : Nat) : List Nat :=
  match code with
  | 0x01 => [0]
  | 0x02 => [0]
  | 0x08 => [0, 0]
  | _ => []

/-- The image an opcode-table word stands for, every bit above `nbits` zero. The table gives no format
bits: 9 to 16 bits are a received character, more a command header, and an 8-bit word is a step code
where R102 assigns it and a start code otherwise (DESIGN CHOICE, log 12). -/
def tableImage (nbits w : Nat) : Image :=
  let word : Word := BitVec.ofNat 32 (w % 2 ^ nbits)
  if nbits ≤ 8 then
    if 1 ≤ word.toNat ∧ word.toNat ≤ 13 then ⟨.seq, [word], stepOperands word.toNat⟩
    else ⟨.sc, [word], []⟩
  else if nbits ≤ 16 then ⟨.rxchar, [word], []⟩
  else ⟨.cmd, word :: List.replicate (commandLength word - 1) 0, []⟩

/-- The instruction the decoder reads from an opcode-table word. -/
def decodeTableWord (nbits w : Nat) : Option Instr :=
  match decode (tableImage nbits w) with
  | .ok i => some i
  | .error _ => none

end Sys2Proof
end

