-- ==== Sys2Proof/Machine/State.lean ====
section
/-! DEFINITION. The machine's state as plain data (spec 10_state.md R20 and the interrupt requests of
60_exceptions.md R301), its reset value (R47), and the reasons a step can stop. The fields that are the
model's own and not the spec's say so. -/

namespace Sys2Proof.Machine

/-- A memory of elements `w` bits wide, as index and value pairs with the indices strictly rising. For
8-bit elements this is a list of `Host.Cell`. The spec's three memories are `chan`, `rb` and `dl` (R60). -/
abbrev Memory (w : Nat) := List (Nat × BitVec w)

/-- The UART's baud mode (R25). -/
inductive Baud where
  | nominal
  | slow
  deriving DecidableEq, Repr

/-- A received character `(b, fe)` (R92). -/
structure RxChar where
  b : Byte
  fe : Bool
  deriving DecidableEq, Repr

/-- The frame-sync state (R35). -/
inductive FsState where
  | idle
  | awaitSC
  | synced
  | pollRead
  deriving DecidableEq, Repr

/-- Where `DISCOVER` is (R40, R194): its `while` test or its inner loop. -/
inductive Phase where
  | outer
  | inner
  deriving DecidableEq, Repr

/-- The stage of a poll (R40): Break, Bitmap with the next position `j`, Release, Window with the next
sample `k`. -/
inductive PollStage where
  | brk
  | bitmap (j : Nat)
  | release
  | window (k : Nat)
  deriving DecidableEq, Repr

/-- The controller sequencer's position (R40). It changes where the comments of R150, R152 and R194 and
the loop counters of R191 say so and keeps its value in between; `Disc(Outer)` holds the range (1, 512)
(log 10). -/
inductive SeqPos where
  /-- At the phase-boundary checkpoint of a bus cycle. -/
  | boundary
  /-- Inside `DATA_FRAME`, slot `i` next. -/
  | frame (i : Nat)
  /-- Inside `DISCOVER`, with the range (`mn`, `mx`). -/
  | disc (phase : Phase) (mn mx : Nat)
  /-- Inside `POLL_RANGE mn, mx`. -/
  | poll (mn mx : Nat) (stage : PollStage)
  deriving DecidableEq, Repr

/-- The numbered step of `ENQUEUE` that is next (R270). -/
inductive EnqAt where
  | e1
  | e2
  | e3
  | e4
  | e5
  deriving DecidableEq, Repr

/-- An `ENQ` call in progress (R42, R270): the bytes `b[k..N-1]`, the step that is next and the value `t`
of `tail` read for the recomputation of `full`; before the call's first E4 the spec gives `t` no value
and it holds 0 (log 27). -/
structure EnqCall where
  left : List Byte
  at_ : EnqAt
  t : Byte
  deriving DecidableEq, Repr

/-- An operation the main loop has called and not yet returned from: its image and the line of its
pseudocode that is next (model's own, logs 7 and 9). -/
structure Call where
  image : Image
  line : Nat
  deriving DecidableEq, Repr

/-- A wire event (R93): `DE(v)`, or a character handed to the UART at a baud mode. `BRK` is the
character 0x00 at the slowed rate, `BYTE(b)` the character `b` at the nominal rate (log 19). -/
inductive WireEvent where
  | de (v : Bool)
  | char (b : Byte) (rate : Baud)
  deriving DecidableEq, Repr

/-- `BRK` (R93). -/
abbrev WireEvent.brk : WireEvent := .char 0 .slow

/-- `BYTE(b)` (R93). -/
abbrev WireEvent.byte (b : Byte) : WireEvent := .char b .nominal

/-- A response on the host response port (R34). -/
inductive Response where
  | ok
  | err
  | val (v : Byte)
  | disc (list : List Addr) (overflow : Bool)
  deriving DecidableEq, Repr

/-- What the environment does at one step boundary (R301, R304, R340): which interrupt requests it
raises, which handler runs first if both are pending, and whether it applies reset (log 16). -/
structure Event where
  tick : Bool
  drain : Bool
  tickFirst : Bool
  reset : Bool
  deriving DecidableEq, Repr

/-- A step boundary at which the environment does nothing. -/
def Event.quiet : Event := ⟨false, false, true, false⟩

/-- `draw x from S` (R14): the values the environment supplies to successive draws, those of `now` first
and then `rest` and those of `loop`, in turn and for ever (model's own, log 1). -/
structure Draw (α : Type) where
  now : List α
  rest : α
  loop : List α
  deriving DecidableEq, Repr

/-- The state of the units of role Controller (R20; U3, U4, U5). -/
structure Controller where
  /-- `chan[0..512]`, the channel frame (R26); an unlisted slot holds 0. -/
  chan : Memory 8
  /-- `maxDmxAddr` (R27), 10 bits, 1..512. -/
  maxDmxAddr : Addr
  /-- `outEn` (R28). -/
  outEn : Bool
  /-- `discPending` (R29). -/
  discPending : Bool
  /-- `dl[0..9]`, the discovered address list (R30); an unlisted entry is unspecified. -/
  dl : Memory 10
  /-- `dlCount` (R30), 0..10. -/
  dlCount : Nat
  /-- `dlOverflow` (R31). -/
  dlOverflow : Bool
  /-- `rb[0..255]`, the ring array (R32); an unlisted element is unspecified. -/
  rb : Memory 8
  /-- `head` (R32), 8 bits. -/
  head : Byte
  /-- `tail` (R32), 8 bits. -/
  tail : Byte
  /-- `full` (R33). -/
  full : Bool
  /-- `seq` (R40). -/
  seq : SeqPos
  /-- `enq` (R42). -/
  enq : Option EnqCall
  /-- The value `POLL_RANGE` returned to `DISCOVER`, or whether the character just sampled is a Break
  (model's own, log 11). -/
  answer : Bool
  /-- The transmit-drain interrupt request is pending (R301). -/
  pendDrain : Bool
  deriving DecidableEq, Repr

/-- The state of the units of role Device (R20; U2). -/
structure Device where
  /-- `fs` (R35). -/
  fs : FsState
  /-- `slot` (R36), 10 bits, 0..512. -/
  slot : Addr
  /-- `pollIdx` (R37), 10 bits, 1..512. -/
  pollIdx : Addr
  /-- `pollAddr` (R37), 10 bits, 1..512. -/
  pollAddr : Addr
  /-- `pollCap` (R37). -/
  pollCap : Byte
  /-- `devVal` (R38). -/
  devVal : Byte
  /-- `duty` (R38). -/
  duty : Byte
  /-- `actLed` (R39). -/
  actLed : Bool
  /-- `addr`, the address of the loop's present iteration (R230: no state of the spec's; log 11). -/
  addr : Addr
  deriving DecidableEq, Repr

/-- The timeout counters (R44): natural numbers. -/
structure Counters where
  red : Nat
  green : Nat
  noData : Nat
  deriving DecidableEq, Repr

/-- The inputs of R45, none of them state of the block: what the environment will answer (model's own,
log 1). -/
structure Env where
  /-- Answers of `uart.txEmpty` (R90). -/
  txEmpty : Draw Bool
  /-- Answers of `uart.rxIdle` (R90). -/
  rxIdle : Draw Bool
  /-- Whether the UART transmitter can accept a character (R12, R122). -/
  txReady : Draw Bool
  /-- What `UartGet` and `RxSample` find in the receiver: nothing or one character (R12). -/
  rx : Draw (Option RxChar)
  /-- What `ReadPins` returns (R12). -/
  pins : Draw Pins
  /-- Whether the host presents a command at a checkpoint (R151, log 14). -/
  present : Draw Bool
  /-- The words of the commands that the host presents, 32 bits each, first word first (R90, R99). -/
  cmd : Draw Word
  /-- What happens at each step boundary (R301, R304). -/
  events : Draw Event
  /-- Where an operation that starts or goes on stops: nowhere before it ends, holds or calls, or after
  `n + 1` of its lines, so that a handler or a reset can come there (R305; log 8). -/
  cut : Draw (Option Nat)
  deriving DecidableEq, Repr

/-- What the block has put out since the run began (R19), oldest first (model's own, log 3). -/
structure Outputs where
  /-- The wire events. -/
  wire : List WireEvent
  /-- The responses on the host response port. -/
  resp : List Response
  /-- The bytes handed to `ConsoleOut`. -/
  console : List Byte
  /-- The bytes handed to `DutyOut`. -/
  duty : List Byte
  /-- The counters whose expiry effect fired. -/
  fired : List CounterId
  deriving DecidableEq, Repr

/-- The machine: what both roles have (`de`, `baud`, the timeout counters, the tick request), what each
role has, and, the model's own, the parameters, the operations called, the environment, the outputs and
the number of resets. -/
structure State where
  /-- The OPEN parameters of R8 (model's own, log 2). -/
  par : Params
  /-- `de` (R24). -/
  de : Bool
  /-- `baud` (R25). -/
  baud : Baud
  /-- `tmoRed`, `tmoGreen`, `tmoNoData` (R44). -/
  tmo : Counters
  /-- The tick interrupt request is pending (R301). -/
  pendTick : Bool
  /-- The Controller's state. -/
  ctl : Controller
  /-- The Device's state. -/
  dev : Device
  /-- The operations the main loop has called and not yet returned from, the one called last first
  (model's own, log 9). -/
  ops : List Call
  /-- The line at which the operation being executed starts or goes on; 0 between steps (model's own,
  log 9). -/
  line : Nat
  /-- The environment's draws (model's own, log 1). -/
  env : Env
  /-- The observation (model's own, log 3). -/
  out : Outputs
  /-- How many resets the block has had: it makes each reset's unspecified values new (log 6). -/
  resets : Nat
  deriving DecidableEq, Repr

/-- The Controller's state at its reset values (R47). -/
def Controller.atReset (p : Params) : Controller where
  chan := []
  maxDmxAddr := p.maxAtReset
  outEn := p.outAtReset
  discPending := false
  dl := []
  dlCount := 0
  dlOverflow := false
  rb := []
  head := 0
  tail := 0
  full := false
  seq := .boundary
  enq := none
  answer := false
  pendDrain := false

/-- The Device's state at its reset values (R47). -/
def Device.atReset : Device where
  fs := .idle
  slot := 0
  pollIdx := 1
  pollAddr := 1
  pollCap := 0
  devVal := 0
  duty := 0
  actLed := false
  addr := 1

/-- The counters at their reset values (R47). -/
def Counters.atReset : Counters := ⟨0, 0, 0⟩

/-- A quiet environment: an idle UART that is always ready, nothing received, pins high, no command, no
interrupt request, no operation stopped (DESIGN CHOICE, log 1). -/
def Env.quiet : Env where
  txEmpty := ⟨[], true, []⟩
  rxIdle := ⟨[], true, []⟩
  txReady := ⟨[], true, []⟩
  rx := ⟨[], none, []⟩
  pins := ⟨[], 0x1FF, []⟩
  present := ⟨[], false, []⟩
  cmd := ⟨[], 0, []⟩
  events := ⟨[], Event.quiet, []⟩
  cut := ⟨[], none, []⟩

/-- Nothing put out yet. -/
def Outputs.none : Outputs := ⟨[], [], [], [], []⟩

/-- The machine after reset with parameters `p`, in environment `env`, after outputs `out`, this being
reset number `n` (R47, R340): no request pending, no operation called (log 25). -/
def State.resetWith (p : Params) (env : Env) (out : Outputs) (n : Nat) : State where
  par := p
  de := false
  baud := .nominal
  tmo := Counters.atReset
  pendTick := false
  ctl := Controller.atReset p
  dev := Device.atReset
  ops := []
  line := 0
  env := env
  out := out
  resets := n

/-- The machine right after reset (R47, R340). The parameters and the environment are not the spec's
(logs 1 and 2). -/
def State.reset : State := State.resetWith Config.params Env.quiet Outputs.none 0

/-- Faults: an access to a memory element that does not exist. R300 says no operation can fault, and none
does from a state that meets `Safe` (Safety.lean); these stop states that no run reaches (log 20). Each
is safe. -/
inductive Fault where
  /-- `DATA_FRAME` would read a slot of `chan` above 512 (R60, R70). Safe. -/
  | noSuchSlot (i : Nat)
  /-- `DISCOVER` would append at an index of `dl` above 9 (R60, R70). Safe. -/
  | noSuchEntry (i : Nat)
  deriving DecidableEq, Repr

/-- Refusals. -/
inductive Refusal where
  /-- The instruction has no meaning yet. Raised by `exec`'s refused arms only. Safe. -/
  | notModelled (mnemonic : String)
  /-- The operation does not exist in the block's role (R4, R104). Raised by every meaning of an
  operation that only one role has (log 4). Safe. -/
  | absentInRole
  /-- An image that stands for no operation and is no host command: an unassigned step code (R102) or a
  malformed image, which the block never forms. Raised by `step` (log 24). Safe. -/
  | noOperation
  deriving DecidableEq, Repr

/-- The outcome of one step. -/
abbrev Result := Host.Outcome State Fault Refusal

end Sys2Proof.Machine
end

