-- ==== Sys2Proof/Machine/Memory.lean ====
section
/-! DEFINITION. Reading and writing one element of a memory (spec 20_memory.md R60, R69), and the
canonical form every write keeps. -/

namespace Sys2Proof.Machine

/-- The value listed for index `i`, if any. -/
def Memory.lookup {w : Nat} : Memory w → Nat → Option (BitVec w)
  | [], _ => none
  | (k, v) :: rest, i => if k = i then some v else Memory.lookup rest i

/-- The memory without an entry for index `i`. -/
def Memory.remove {w : Nat} : Memory w → Nat → Memory w
  | [], _ => []
  | (k, v) :: rest, i => if k = i then Memory.remove rest i else (k, v) :: Memory.remove rest i

/-- The memory with `v` listed for index `i`, in its place. -/
def Memory.place {w : Nat} : Memory w → Nat → BitVec w → Memory w
  | [], i, v => [(i, v)]
  | (k, u) :: rest, i, v =>
    if i < k then (i, v) :: (k, u) :: rest
    else if i = k then (i, v) :: rest
    else (k, u) :: Memory.place rest i v

/-- Write one element. `blank` is what an unlisted index reads as, if it has a value of its own; writing
that value removes the entry. -/
def Memory.write {w : Nat} (blank : Option (BitVec w)) (m : Memory w) (i : Nat) (v : BitVec w) :
    Memory w :=
  if blank = some v then Memory.remove m i else Memory.place m i v

/-- Every index listed is above `lo` (or there is no bound yet), the indices rise strictly, none is
`size` or above, and no entry holds the blank value. -/
def Memory.wfFrom {w : Nat} (blank : Option (BitVec w)) (size : Nat) : Option Nat → Memory w → Bool
  | _, [] => true
  | lo, (k, v) :: rest =>
    (match lo with
      | none => true
      | some l => decide (l < k)) &&
    decide (k < size) && decide (blank ≠ some v) && Memory.wfFrom blank size (some k) rest

/-- The canonical form of a memory of `size` elements. -/
def Memory.wf {w : Nat} (blank : Option (BitVec w)) (size : Nat) (m : Memory w) : Bool :=
  Memory.wfFrom blank size none m

/-- What an unlisted slot of the channel frame reads as: 0 (R26, R47: zeroed at boot). -/
def chanBlank : Option Byte := some 0

/-- An unlisted ring element has no value of its own (R47: unspecified). -/
def ringBlank : Option Byte := none

/-- An unlisted list entry has no value of its own (R47: unspecified). -/
def listBlank : Option Addr := none

/-- `MemRead(chan, i)` (R61). -/
def State.chanRead (s : State) (i : Nat) : Byte := (Memory.lookup s.ctl.chan i).getD 0

/-- `MemWrite(chan, i, v)` (R61). -/
def State.chanWrite (s : State) (i : Nat) (v : Byte) : State :=
  { s with ctl := { s.ctl with chan := Memory.write chanBlank s.ctl.chan i v } }

/-- `MemRead(rb, i)` (R62); an element nothing has written since reset is a free value. -/
def State.ringRead (s : State) (i : Byte) : Byte :=
  (Memory.lookup s.ctl.rb i.toNat).getD (Config.ringAtReset s.resets i.toNat)

/-- `MemWrite(rb, i, v)` (R62). -/
def State.ringWrite (s : State) (i : Byte) (v : Byte) : State :=
  { s with ctl := { s.ctl with rb := Memory.write ringBlank s.ctl.rb i.toNat v } }

/-- `MemRead(dl, i)` (R63); an entry nothing has written since reset is a free value. -/
def State.listRead (s : State) (i : Nat) : Addr :=
  (Memory.lookup s.ctl.dl i).getD (Config.listAtReset s.resets i)

/-- `MemWrite(dl, i, v)` (R63). -/
def State.listWrite (s : State) (i : Nat) (v : Addr) : State :=
  { s with ctl := { s.ctl with dl := Memory.write listBlank s.ctl.dl i v } }

/-- `dl[0..dlCount-1]`, in discovery order (R30, R198). -/
def State.discovered (s : State) : List Addr :=
  (List.range s.ctl.dlCount).map s.listRead

end Sys2Proof.Machine
end

