-- ==== Sys2Proof/Machine/Ops.lean ====
section
/-! DEFINITION. The named operations over the state that the meanings are built from: the collaborator
primitives of spec 00_scope.md R12, the draws of R14, the ports of R90, calls and the taking of an
interrupt (R301 to R306). The block has no exception (R300); taking an interrupt
saves nothing and goes to no vector (R306), so it is the choice of the next handler. -/

namespace Sys2Proof.Machine

/-! ### Draws (R14) -/

/-- The next value drawn and the draws after it. -/
def Draw.next {α : Type} (d : Draw α) : α × Draw α :=
  match d.now, d.loop with
  | x :: later, _ => (x, { d with now := later })
  | [], [] => (d.rest, d)
  | [], y :: ys => (d.rest, ⟨[], y, ys ++ [d.rest]⟩)

/-- A draw that answers `x` first and then as before. -/
def Draw.push {α : Type} (x : α) (d : Draw α) : Draw α := { d with now := x :: d.now }

/-- The next `n` values drawn. -/
def Draw.take {α : Type} : Nat → Draw α → List α
  | 0, _ => []
  | n + 1, d => d.next.1 :: Draw.take n d.next.2

/-- The draws after the next `n`. -/
def Draw.drop {α : Type} : Nat → Draw α → Draw α
  | 0, d => d
  | n + 1, d => Draw.drop n d.next.2

/-- Query `uart.txEmpty`. -/
def State.drawTxEmpty (s : State) : Bool × State :=
  (s.env.txEmpty.next.1, { s with env := { s.env with txEmpty := s.env.txEmpty.next.2 } })

/-- Query `uart.rxIdle`. -/
def State.drawRxIdle (s : State) : Bool × State :=
  (s.env.rxIdle.next.1, { s with env := { s.env with rxIdle := s.env.rxIdle.next.2 } })

/-- Query whether the UART transmitter can accept a character. -/
def State.drawTxReady (s : State) : Bool × State :=
  (s.env.txReady.next.1, { s with env := { s.env with txReady := s.env.txReady.next.2 } })

/-- Look into the receiver, taking the character found (`UartGet`, `RxSample`; R72). -/
def State.drawRx (s : State) : Option RxChar × State :=
  (s.env.rx.next.1, { s with env := { s.env with rx := s.env.rx.next.2 } })

/-- `ReadPins()`. -/
def State.drawPins (s : State) : Pins × State :=
  (s.env.pins.next.1, { s with env := { s.env with pins := s.env.pins.next.2 } })

/-- Whether the host presents a command at this checkpoint (R151). -/
def State.drawPresent (s : State) : Bool × State :=
  (s.env.present.next.1, { s with env := { s.env with present := s.env.present.next.2 } })

/-- What the environment does at this step boundary. -/
def State.drawEvent (s : State) : Event × State :=
  (s.env.events.next.1, { s with env := { s.env with events := s.env.events.next.2 } })

/-- Where the operation that starts or goes on stops (R305, log 8). -/
def State.drawCut (s : State) : Option Nat × State :=
  (s.env.cut.next.1, { s with env := { s.env with cut := s.env.cut.next.2 } })

/-! ### Outputs (R19, R90) -/

/-- One more wire event (R93). -/
def State.emit (s : State) (e : WireEvent) : State :=
  { s with out := { s.out with wire := s.out.wire ++ [e] } }

/-- `respond(r)` on the host response port (R34). -/
def State.respond (s : State) (r : Response) : State :=
  { s with out := { s.out with resp := s.out.resp ++ [r] } }

/-- `ConsoleOut(b)`. -/
def State.consoleOut (s : State) (b : Byte) : State :=
  { s with out := { s.out with console := s.out.console ++ [b] } }

/-- `DutyOut(b)`. -/
def State.dutyOut (s : State) (b : Byte) : State :=
  { s with out := { s.out with duty := s.out.duty ++ [b] } }

/-- `SetDE(v)`: a wire event only when `de` changes (R93, R121). -/
def State.setDe (s : State) (v : Bool) : State :=
  if s.de = v then s else State.emit { s with de := v } (.de v)

/-- `SetBaud(m)`. -/
def State.setBaud (s : State) (m : Baud) : State := { s with baud := m }

/-- `UartPut(b)` at the current baud mode (R93). -/
def State.uartPut (s : State) (b : Byte) : State := s.emit (.char b s.baud)

/-! ### Control -/

/-- The operation `i`, at line `k`, is what the main loop runs next. -/
def State.callAt (s : State) (i : Instr) (k : Nat) : State :=
  { s with ops := ⟨encode i, k⟩ :: s.ops }

/-- The controller sequencer's position becomes `p`. -/
def State.goto (s : State) (p : SeqPos) : State := { s with ctl := { s.ctl with seq := p } }

/-- An operation of one role only does not exist in the other (R4, R104). -/
def inRole (r : Role) (s : State) (k : Result) : Result :=
  if s.par.role = r then k else .refused .absentInRole

/-! ### Counters and the indicator (R44, R302) -/

/-- `s.tmo[c]`. -/
def State.counter (s : State) : CounterId → Nat
  | .red => s.tmo.red
  | .green => s.tmo.green
  | .noData => s.tmo.noData

/-- `s.tmo[P_CHANGE_CTR]` (R44): the red or the green counter. Where the two agree it is their common value,
whichever the parameter names. -/
def State.changeCounter (s : State) : Nat :=
  if s.tmo.red = s.tmo.green then s.tmo.red else s.counter s.par.changeCtr.id

/-- `s.tmo[c] <- n` (R44: arming sets an absolute value). -/
def State.setCounter (s : State) (c : CounterId) (n : Nat) : State :=
  match c with
  | .red => { s with tmo := { s.tmo with red := n } }
  | .green => { s with tmo := { s.tmo with green := n } }
  | .noData => { s with tmo := { s.tmo with noData := n } }

/-- `s.actLed <- v`. -/
def State.setLed (s : State) (v : Bool) : State := { s with dev := { s.dev with actLed := v } }

/-- One expiry's effect on a logical indicator. -/
def ledAfter : LedUpdate → Bool → Bool
  | .keep, v => v
  | .turnOff, _ => false
  | .turnOn, _ => true
  | .toggle, v => !v

/-- `E_EXPIRE(c)` (R302): it fires once, and in role Device may write `actLed`. -/
def State.expire (s : State) (c : CounterId) : State :=
  let s := { s with out := { s.out with fired := s.out.fired ++ [c] } }
  match s.par.role with
  | .device => s.setLed (ledAfter (s.par.expire c) s.dev.actLed)
  | .controller => s

/-! ### Interrupts (R301 to R306) -/

/-- The environment raises requests; one already pending is not counted twice, and role Device has no
drain request (R301). -/
def State.raise (s : State) (e : Event) : State :=
  { s with
    pendTick := s.pendTick || e.tick
    ctl := { s.ctl with
      pendDrain := s.ctl.pendDrain || (e.drain && decide (s.par.role = .controller)) } }

/-- The handler that runs next, if a request is pending; with both pending the order is the event's
(R304). -/
def State.handler (s : State) (e : Event) : Option Instr :=
  if s.pendTick && (e.tickFirst || !s.ctl.pendDrain) then some .tick
  else if s.ctl.pendDrain then some .drainOne
  else none

end Sys2Proof.Machine
end

