-- ==== Sys2Proof/Machine/Operands.lean ====
section
/-! DEFINITION. The operand forms: the address of a host command (spec 30_encoding.md R101), the device
address from the pins (10_state.md R46), the classes of a received character (40_framer.md R125 to
R127), the poll flag (42_discovery.md R190) and the command taken from the port (R99). -/

namespace Sys2Proof.Machine

/-- `SET`, `GET` and `MAX` require 1 <= A <= 512 (R101). -/
def validSlot (a : Addr) : Bool := decide (1 ≤ a.toNat) && decide (a.toNat ≤ Config.nAddr)

/-- `addr = zext_10(~pins) + 1` (R46): pins all high give 1, all low give 512. -/
def deviceAddress (p : Pins) : Addr := (~~~p).setWidth 10 + 1

/-- `isBreak` (R125). -/
def RxChar.isBreak (c : RxChar) : Bool := c.fe && decide (c.b = 0)

/-- `isStray` (R126). -/
def RxChar.isStray (c : RxChar) : Bool := c.fe && decide (c.b ≠ 0)

/-- `isData` (R127). -/
def RxChar.isData (c : RxChar) : Bool := !c.fe

/-- The operation a received character is (R92). -/
def RxChar.instr (c : RxChar) : Instr :=
  if c.isBreak then .rxBreak else if c.isStray then .rxStrayFe c.b else .rxData c.b

/-- The poll flag at position `j` of a poll of (`mn`, `mx`) (R190). -/
def State.pollFlag (s : State) (mn mx j : Nat) : Byte :=
  if mn ≤ j ∧ j ≤ mx ∧ BitVec.ofNat 10 j ∉ s.discovered then 1 else 0

/-- How many words the next command of the host has; its header alone tells (R99). -/
def nextLength (d : Draw Word) : Nat := commandLength d.next.1

end Sys2Proof.Machine
end

