-- ==== Sys2Proof/Machine/Flags.lean ====
section
/-! DEFINITION. The flag computations: the ring's `full` (spec 10_state.md R33) and emptiness (R32), the
slot counter's wrap (43_frame_sync.md R236), and the range updates of the census (42_discovery.md R196,
R197). -/

namespace Sys2Proof.Machine

/-- `(head + 1) mod 256 = tail` (R33): one more write would make `head` collide with `tail`. -/
def ringFull (head tail : Byte) : Bool := decide (head + 1 = tail)

/-- The ring is empty iff `head = tail` (R32). -/
def ringEmpty (head tail : Byte) : Bool := decide (head = tail)

/-- `count = (head - tail) mod 256` (R32). -/
def ringCount (head tail : Byte) : Nat := (head - tail).toNat

/-- `s.slot + 1 > 512` (R236): the slot counter wraps to 0. -/
def slotWraps (slot : Addr) : Bool := decide (slot.toNat + 1 > Config.nAddr)

/-- The upper bound of the lower half (R196). -/
def lowerHalf (mn mx : Nat) : Nat := (mn + mx - 1) / 2

/-- The complementary upper half of the same width (R197). -/
def upperHalf (mn mx : Nat) : Nat × Nat := (mx + 1, 2 * mx + 1 - mn)

end Sys2Proof.Machine
end

