-- ==== Sys2Proof/Machine/Lines.lean ====
section
/-! DEFINITION. How an operation runs: line by line of its pseudocode, a line being the spec's step (spec
60_exceptions.md R305). Each operation is a function from the number of a line and the state to how that
line ends; `perform` runs lines until the operation returns, holds or calls another, or until the
environment stops it between two lines (logs 7 to 9). -/

namespace Sys2Proof.Machine

/-- How a line ends. -/
inductive LineEnd where
  /-- Line `k` is next. -/
  | goOn (k : Nat) (s : State)
  /-- `hold until C`, and `C` does not hold: the line is next again (R14). -/
  | hold (s : State)
  /-- The operation calls `i`; line `k` is next when `i` has returned. -/
  | call (i : Instr) (k : Nat) (s : State)
  /-- The operation's last line calls the operation of image `im`. -/
  | last (im : Image) (s : State)
  /-- The operation returns. -/
  | ret (s : State)
  /-- The line would access an element that does not exist (log 20). -/
  | stop (f : Fault)
  deriving DecidableEq, Repr

/-- A test: line `k` is next if it holds, line `k'` if not. -/
def branch (c : Prop) [Decidable c] (k k' : Nat) (s : State) : LineEnd :=
  if c then .goOn k s else .goOn k' s

/-- `hold until c`; line `k` follows. -/
def holdUntil (c : Bool) (k : Nat) (s : State) : LineEnd := if c then .goOn k s else .hold s

/-- `UartPut(b)` (R12): it blocks while the transmitter cannot accept the character; `next` says how the
line ends when it has. -/
def uartPutLine (b : Byte) (next : State → LineEnd) (s : State) : LineEnd :=
  if s.drawTxReady.1 then next (s.drawTxReady.2.uartPut b) else .hold s.drawTxReady.2

/-- Run the lines of `i` from line `k` on, at most `fuel` of them, stopping early as `cut` says. An
operation that has not returned stands in `ops` with the line that is next. -/
def runLines (i : Instr) (lines : Nat → State → LineEnd) : Nat → Option Nat → Nat → State → Result
  | 0, _, k, s => .next (s.callAt i k)
  | fuel + 1, cut, k, s =>
    match lines k s with
    | .goOn k' s' =>
      match cut with
      | none => runLines i lines fuel none k' s'
      | some 0 => .next (s'.callAt i k')
      | some (n + 1) => runLines i lines fuel (some n) k' s'
    | .hold s' => .next (s'.callAt i k)
    | .call i' k' s' => .next ((s'.callAt i k').callAt i' 0)
    | .last im s' => .next { s' with ops := ⟨im, 0⟩ :: s'.ops }
    | .ret s' => .next s'
    | .stop f => .fault f

/-- More lines than any operation but `CLEAR` and `ENQ` runs without returning, holding or calling. -/
def shortRun : Nat := 256

/-- The state in which an operation's lines run: the draw of where it stops and the line it starts at are
taken. -/
def State.started (s : State) : State := { s.drawCut.2 with line := 0 }

/-- Execute `i`: its lines from the one that `line` holds, stopping where the environment says. -/
def perform (i : Instr) (lines : Nat → State → LineEnd) (fuel : Nat) (s : State) : Result :=
  runLines i lines fuel s.drawCut.1 s.line s.started

end Sys2Proof.Machine
end

