-- ==== Sys2Proof/Machine/Framer.lean ====
section
/-! DEFINITION. The frame framer's transmit operations (spec 40_framer.md R120 to R124), line by line. -/

namespace Sys2Proof.Machine

/-- The lines of `SEND_BREAK sc` (R121). -/
def sendBreakLines (sc : Byte) (k : Nat) (s : State) : LineEnd :=
  match k with
  | 0 => holdUntil (s.drawTxEmpty.1 && s.drawRxIdle.1) 1 s.drawTxEmpty.2.drawRxIdle.2
  | 1 => branch (s.de = false) 2 3 s
  | 2 => .goOn 3 (s.setDe true)
  | 3 => .goOn 4 (s.setBaud .slow)
  | 4 => uartPutLine 0 (.goOn 5) s
  | 5 => holdUntil s.drawTxEmpty.1 6 s.drawTxEmpty.2
  | 6 => .goOn 7 (s.setBaud .nominal)
  | _ => uartPutLine sc .ret s

/-- `SEND_BREAK sc` (R121). -/
def execSendBreak (sc : Byte) (s : State) : Result :=
  inRole .controller s <| perform (.sendBreak sc) (sendBreakLines sc) shortRun s

/-- The lines of `PUT_SLOT b` (R122). -/
def putSlotLines (b : Byte) (k : Nat) (s : State) : LineEnd :=
  match k with
  | 0 => holdUntil s.drawTxReady.1 1 s.drawTxReady.2
  | _ => uartPutLine b .ret s

/-- `PUT_SLOT b` (R122). -/
def execPutSlot (b : Byte) (s : State) : Result :=
  inRole .controller s <| perform (.putSlot b) (putSlotLines b) shortRun s

/-- The lines of `RELEASE_DE` (R123). -/
def releaseDeLines (k : Nat) (s : State) : LineEnd :=
  match k with
  | 0 => holdUntil s.drawTxEmpty.1 1 s.drawTxEmpty.2
  | _ => .ret (s.setDe false)

/-- `RELEASE_DE` (R123). -/
def execReleaseDe (s : State) : Result :=
  inRole .controller s <| perform .releaseDe releaseDeLines shortRun s

/-- The lines of `BARE_BREAK` (R124): no wait for an idle receiver, no start code. -/
def bareBreakLines (k : Nat) (s : State) : LineEnd :=
  match k with
  | 0 => .goOn 1 (s.setDe true)
  | 1 => .goOn 2 (s.setBaud .slow)
  | 2 => uartPutLine 0 (.goOn 3) s
  | 3 => holdUntil s.drawTxEmpty.1 4 s.drawTxEmpty.2
  | 4 => .goOn 5 (s.setBaud .nominal)
  | _ => .ret (s.setDe false)

/-- `BARE_BREAK` (R124). -/
def execBareBreak (s : State) : Result :=
  inRole .device s <| perform .bareBreak bareBreakLines shortRun s

end Sys2Proof.Machine
end

