-- ==== Sys2Proof/Machine/Ring.lean ====
section
/-! DEFINITION. The transmit ring-buffer controller (spec 44_ring_buffer.md): `ENQUEUE` (R270), which the
host command `ENQ` runs (41_controller.md R167), and `DRAIN_ONE` (R271). -/

namespace Sys2Proof.Machine

/-- `enq <- c` (R42). -/
def State.setEnq (s : State) (c : Option EnqCall) : State := { s with ctl := { s.ctl with enq := c } }

/-- The line `respond OK` of `ENQ`, where the call has returned (R167). -/
def enqDone : Nat := 4

/-- One numbered step of `ENQUEUE`, one atomic access (R270). After E5 line 3 is next; where E1 reads
`full = 1` the rest is dropped and the call returns. -/
def enqStep (c : EnqCall) (s : State) : LineEnd :=
  match c.at_, c.left with
  | _, [] => .goOn enqDone (s.setEnq none)
  | .e1, _ :: _ =>
    if s.ctl.full then .goOn enqDone (s.setEnq none) else .goOn 2 (s.setEnq (some { c with at_ := .e2 }))
  | .e2, b :: _ => .goOn 2 ((s.ringWrite s.ctl.head b).setEnq (some { c with at_ := .e3 }))
  | .e3, _ :: _ =>
    .goOn 2 (State.setEnq { s with ctl := { s.ctl with head := s.ctl.head + 1 } }
      (some { c with at_ := .e4 }))
  | .e4, _ :: _ => .goOn 2 (s.setEnq (some { c with at_ := .e5, t := s.ctl.tail }))
  | .e5, _ :: _ =>
    .goOn 3 (State.setEnq { s with ctl := { s.ctl with full := ringFull s.ctl.head c.t } }
      (some { c with at_ := .e1 }))

/-- The lines of `ENQ N, bytes` (R167, R270): `k <- 0`, the `while` test, the numbered steps, `k <- k + 1`
and the response. `enq` holds the call while it is in progress; its `t` is 0 before E4 (log 27). -/
def enqLines (bytes : List Byte) (k : Nat) (s : State) : LineEnd :=
  match k, s.ctl.enq with
  | 0, _ => .goOn 1 (s.setEnq (some ⟨bytes, .e1, 0⟩))
  | 1, some c => if c.left = [] then .goOn enqDone (s.setEnq none) else .goOn 2 s
  | 2, some c => enqStep c s
  | 3, some c => .goOn 1 (s.setEnq (some { c with left := c.left.tail }))
  | _, _ => .ret (s.respond .ok)

/-- More lines than an `ENQ` runs: seven for each byte, and those that begin and end it. -/
def enqFuel (bytes : List Byte) (s : State) : Nat :=
  match s.ctl.enq with
  | none => 7 * bytes.length + 8
  | some c => 7 * (bytes.length + c.left.length) + 8

/-- `ENQ N, bytes` (R167): `ENQUEUE` of the bytes, then `OK`, whether or not bytes were dropped. -/
def execCmdEnq (bytes : List Byte) (s : State) : Result :=
  inRole .controller s <| perform (.cmdEnq bytes) (enqLines bytes) (enqFuel bytes s) s

/-- The body of `DRAIN_ONE` (R271), one atomic step. -/
def drainBody (s : State) : State :=
  let s :=
    if ringEmpty s.ctl.head s.ctl.tail then s
    else
      let s := s.consoleOut (s.ringRead s.ctl.tail)
      { s with ctl := { s.ctl with tail := s.ctl.tail + 1 } }
  { s with ctl := { s.ctl with full := ringFull s.ctl.head s.ctl.tail } }

/-- `DRAIN_ONE` (R271, R303); its run clears the request (R301). -/
def execDrainOne (s : State) : Result :=
  inRole .controller s <|
    let s := drainBody s
    .next { s with ctl := { s.ctl with pendDrain := false } }

end Sys2Proof.Machine
end

