-- ==== Sys2Proof/Machine/FrameSync.lean ====
section
/-! DEFINITION. The frame-sync state machine (spec 43_frame_sync.md) and the received characters and
start codes it consumes (40_framer.md R125 to R127), with the poll window's consumer of a received
character (42_discovery.md R192), line by line. -/

namespace Sys2Proof.Machine

/-- The frame-sync state becomes `f`. -/
def State.setFs (s : State) (f : FsState) : State := { s with dev := { s.dev with fs := f } }

/-! ### Start codes -/

/-- The lines of `SC_DATA` (R233). -/
def scDataLines (k : Nat) (s : State) : LineEnd :=
  match k with
  | 0 => .goOn 1 (s.setFs .synced)
  | 1 => .goOn 2 { s with dev := { s.dev with slot := 1 } }
  | 2 => .goOn 3 (s.setCounter .noData s.par.tNoData)
  | 3 => if s.changeCounter = 0 then .goOn 4 s else .ret s
  | _ => .ret (s.setLed true)

/-- `SC_DATA` (R233). -/
def execScData (s : State) : Result :=
  inRole .device s <| perform .scData scDataLines shortRun s

/-- The lines of `SC_POLL` (R234). -/
def scPollLines (k : Nat) (s : State) : LineEnd :=
  match k with
  | 0 => .goOn 1 (s.setFs .pollRead)
  | 1 => .goOn 2 { s with dev := { s.dev with pollIdx := 1 } }
  | _ => .ret { s with dev := { s.dev with pollCap := 0 } }

/-- `SC_POLL` (R234). -/
def execScPoll (s : State) : Result :=
  inRole .device s <| perform .scPoll scPollLines shortRun s

/-- The one line of `SC_OTHER` (R237): the frame is ignored until the next Break. -/
def scOtherLines (_ : Nat) (s : State) : LineEnd := .ret (s.setFs .idle)

/-- `SC_OTHER` (R237), for every other start code alike. -/
def execScOther (b : Byte) (s : State) : Result :=
  inRole .device s <| perform (.scOther b) scOtherLines shortRun s

/-- The start code a character is in `AwaitSC`, framing error or not (R230, R238). -/
def startCode (b : Byte) : Instr :=
  if b = Config.scData then .scData else if b = Config.scPoll then .scPoll else .scOther b

/-! ### Characters at a device -/

/-- The case of R230 that a character is: lines 2 and 3 (R231), dropped (R232, R239), lines 4 to 12
(R236), a start code (R233, R234, R237) or lines 13 to 18 (R235). -/
def deviceCase (c : RxChar) (s : State) : LineEnd :=
  match s.dev.fs with
  | .idle => if c.isBreak then .goOn 2 s else .ret s
  | .synced => if c.isBreak then .goOn 2 s else if c.isStray then .ret s else .goOn 4 s
  | .awaitSC => .last (encode (startCode c.b)) s
  | .pollRead => .goOn 13 s

/-- The lines of one iteration of the device's loop once its character is there (R230 to R236, R239). The
address is read afresh (log 17). -/
def deviceLines (c : RxChar) (k : Nat) (s : State) : LineEnd :=
  match k with
  | 0 => .goOn 1 { s.drawPins.2 with dev := { s.dev with addr := deviceAddress s.drawPins.1 } }
  | 1 => deviceCase c s
  | 2 => .goOn 3 (s.setFs .awaitSC)
  | 3 => .ret { s with dev := { s.dev with pollAddr := s.dev.addr } }
  | 4 => branch (s.dev.slot = s.dev.addr) 5 10 s
  | 5 => branch (c.b ≠ s.dev.devVal) 6 7 s
  | 6 => .goOn 7 (s.setCounter s.par.changeCtr.id s.par.tChange)
  | 7 => .goOn 8 { s with dev := { s.dev with devVal := c.b } }
  | 8 => .goOn 9 { s with dev := { s.dev with duty := c.b } }
  | 9 => .goOn 10 (s.dutyOut c.b)
  | 10 => branch (slotWraps s.dev.slot = true) 11 12 s
  | 11 => .ret { s with dev := { s.dev with slot := 0 } }
  | 12 => .ret { s with dev := { s.dev with slot := s.dev.slot + 1 } }
  | 13 => branch (s.dev.pollIdx = s.dev.pollAddr) 14 15 s
  | 14 => .goOn 15 { s with dev := { s.dev with pollCap := c.b } }
  | 15 => branch (s.dev.pollIdx.toNat = Config.nAddr) 16 18 s
  | 16 => .goOn 17 (s.setFs .idle)
  | 17 => if s.dev.pollCap ≠ 0 then .last (encode .bareBreak) s else .ret s
  | _ => .ret { s with dev := { s.dev with pollIdx := s.dev.pollIdx + 1 } }

/-! ### Characters at a controller -/

/-- The test of a sampled character (R191, R192): whether it is a Break; any other is discarded. Outside a
poll window the answer is used by nothing (log 18). -/
def sampleLines (c : RxChar) (_ : Nat) (s : State) : LineEnd :=
  .ret { s with ctl := { s.ctl with answer := c.isBreak } }

/-- The block consumes a received character: the loop of its role does. -/
def receiveLines (c : RxChar) (k : Nat) (s : State) : LineEnd :=
  match s.par.role with
  | .device => deviceLines c k s
  | .controller => sampleLines c k s

/-- `RX_BREAK` (R125). -/
def execRxBreak (s : State) : Result := perform .rxBreak (receiveLines ⟨0, true⟩) shortRun s

/-- `RX_STRAY_FE` (R126). -/
def execRxStrayFe (b : Byte) (s : State) : Result :=
  perform (.rxStrayFe b) (receiveLines ⟨b, true⟩) shortRun s

/-- `RX_DATA` (R127). -/
def execRxData (b : Byte) (s : State) : Result :=
  perform (.rxData b) (receiveLines ⟨b, false⟩) shortRun s

/-- The line of `FS_STEP` that waits (R230): hold in `UartGet` until a character arrives; the operation
that the character is consumes it, and the loop goes on. -/
def fsStepLines (_ : Nat) (s : State) : LineEnd :=
  match s.drawRx.1 with
  | none => .hold s.drawRx.2
  | some c => .call c.instr 0 s.drawRx.2

/-- `FS_STEP` (R230). -/
def execFsStep (s : State) : Result :=
  inRole .device s <| perform .fsStep fsStepLines shortRun s

end Sys2Proof.Machine
end

