-- ==== Sys2Proof/Machine/Commands.lean ====
section
/-! DEFINITION. The host commands (spec 41_controller.md R160 to R168), line by line, but for `ENQ`, which
stands with the ring (Machine/Ring.lean). -/

namespace Sys2Proof.Machine

/-- The lines of `SET a, d` (R160). -/
def setLines (a : Addr) (d : Byte) (k : Nat) (s : State) : LineEnd :=
  match k with
  | 0 => branch (validSlot a = true) 1 3 s
  | 1 => .goOn 2 (s.chanWrite a.toNat d)
  | 2 => .ret (s.respond .ok)
  | _ => .ret (s.respond .err)

/-- `SET a, d` (R160). -/
def execCmdSet (a : Addr) (d : Byte) (s : State) : Result :=
  inRole .controller s <| perform (.cmdSet a d) (setLines a d) shortRun s

/-- The lines of `GET a` (R161). -/
def getLines (a : Addr) (k : Nat) (s : State) : LineEnd :=
  match k with
  | 0 => branch (validSlot a = true) 1 2 s
  | 1 => .ret (s.respond (.val (s.chanRead a.toNat)))
  | _ => .ret (s.respond .err)

/-- `GET a` (R161). -/
def execCmdGet (a : Addr) (s : State) : Result :=
  inRole .controller s <| perform (.cmdGet a) (getLines a) shortRun s

/-- The lines of `MAX a` (R162). -/
def maxLines (a : Addr) (k : Nat) (s : State) : LineEnd :=
  match k with
  | 0 => branch (validSlot a = true) 1 3 s
  | 1 => .goOn 2 { s with ctl := { s.ctl with maxDmxAddr := a } }
  | 2 => .ret (s.respond .ok)
  | _ => .ret (s.respond .err)

/-- `MAX a` (R162). -/
def execCmdMax (a : Addr) (s : State) : Result :=
  inRole .controller s <| perform (.cmdMax a) (maxLines a) shortRun s

/-- The lines of `ON` (R163, `v = 1`) and of `OFF` (R164, `v = 0`); `de` is not changed. -/
def outputLines (v : Bool) (k : Nat) (s : State) : LineEnd :=
  match k with
  | 0 => .goOn 1 { s with ctl := { s.ctl with outEn := v } }
  | _ => .ret (s.respond .ok)

/-- `ON` (R163). -/
def execCmdOn (s : State) : Result :=
  inRole .controller s <| perform .cmdOn (outputLines true) shortRun s

/-- `OFF` (R164). -/
def execCmdOff (s : State) : Result :=
  inRole .controller s <| perform .cmdOff (outputLines false) shortRun s

/-- The one line of `POLL` (R165): no response now. -/
def pollLines (_ : Nat) (s : State) : LineEnd :=
  .ret { s with ctl := { s.ctl with discPending := true } }

/-- `POLL` (R165). -/
def execCmdPoll (s : State) : Result :=
  inRole .controller s <| perform .cmdPoll pollLines shortRun s

/-- The lines of `CLEAR` (R166): line `k` writes slot `k`, and the one after the last slot responds. -/
def clearLines (k : Nat) (s : State) : LineEnd :=
  if k < Config.nSlot then .goOn (k + 1) (s.chanWrite k 0) else .ret (s.respond .ok)

/-- `CLEAR` (R166). -/
def execCmdClear (s : State) : Result :=
  inRole .controller s <| perform .cmdClear clearLines (Config.nSlot + 1) s

/-- An illegal command word (R168, R100): no state is written and the response is `ERR`. Only role
Controller has the port (R104). -/
def illegalCommand (s : State) : Result := inRole .controller s (.next (s.respond .err))

end Sys2Proof.Machine
end

