-- ==== Sys2Proof/Machine/Sequencer.lean ====
section
/-! DEFINITION. The controller sequencer (spec 41_controller.md R150 to R152), line by line: `DATA_FRAME`,
`CHECKPOINT` and `CYCLE`. -/

namespace Sys2Proof.Machine

/-- `i` of `Frame(i)` (R40); no other position has one. -/
def SeqPos.slot : SeqPos → Nat
  | .frame i => i
  | _ => 1

/-- The one line of `CHECKPOINT` (R151): at most one pending command is taken from the host and becomes
the next operation; `EXECUTE` decodes it (R155). -/
def checkpointLines (_ : Nat) (s : State) : LineEnd :=
  if s.drawPresent.1 then
    let n := nextLength s.env.cmd
    .last ⟨.cmd, s.env.cmd.take n, []⟩ { s.drawPresent.2 with
      env := { s.drawPresent.2.env with cmd := s.env.cmd.drop n } }
  else .ret s.drawPresent.2

/-- `CHECKPOINT` (R151). -/
def execCheckpoint (s : State) : Result :=
  inRole .controller s <| perform .checkpoint checkpointLines shortRun s

/-- The lines of `DATA_FRAME` (R150). `maxDmxAddr` is read afresh at each test, and the slot when it is
sent; the frame leaves `de` as it is. Its end is a position of `CYCLE` again (log 10). -/
def dataFrameLines (k : Nat) (s : State) : LineEnd :=
  let i := s.ctl.seq.slot
  match k with
  | 0 => .call (.sendBreak Config.scData) 1 s
  | 1 => .goOn 2 (s.goto (.frame 1))
  | 2 => if i ≤ s.ctl.maxDmxAddr.toNat then .goOn 3 s else .ret (s.goto .boundary)
  | 3 => if i < Config.nSlot then .call (.putSlot (s.chanRead i)) 4 s else .stop (.noSuchSlot i)
  | 4 => .call .checkpoint 5 s
  | _ => .goOn 2 (s.goto (.frame (i + 1)))

/-- `DATA_FRAME` (R150). -/
def execDataFrame (s : State) : Result :=
  inRole .controller s <| perform .dataFrame dataFrameLines shortRun s

/-- The lines of `CYCLE` (R152), which loops for ever. -/
def cycleLines (k : Nat) (s : State) : LineEnd :=
  match k with
  | 0 => .call .checkpoint 1 (s.goto .boundary)
  | 1 => branch (s.ctl.discPending = true) 2 5 s
  | 2 => .goOn 3 { s with ctl := { s.ctl with discPending := false } }
  | 3 => .call .discover 4 s
  | 4 => .goOn 5 (s.respond (.disc s.discovered s.ctl.dlOverflow))
  | 5 => branch (s.ctl.outEn = true) 6 0 s
  | _ => .call .dataFrame 0 s

/-- `CYCLE` (R152). -/
def execCycle (s : State) : Result :=
  inRole .controller s <| perform .cycle cycleLines shortRun s

end Sys2Proof.Machine
end

