-- ==== Sys2Proof/Machine/Discovery.lean ====
section
/-! DEFINITION. The discovery sequencer (spec 42_discovery.md), line by line: `POLL_RANGE` (R191, R192)
and `DISCOVER` (R194 to R199). -/

namespace Sys2Proof.Machine

/-- `j` of `Poll(mn, mx, Bitmap, j, k)` (R40); no other position has one. -/
def SeqPos.flagIndex : SeqPos → Nat
  | .poll _ _ (.bitmap j) => j
  | _ => 1

/-- `k` of `Poll(mn, mx, Window, j, k)` (R40); no other position has one. -/
def SeqPos.sample : SeqPos → Nat
  | .poll _ _ (.window k) => k
  | _ => 1

/-- `(mn, mx)` of `Disc(phase, mn, mx)` and of the poll it called (R40); no other position has one. -/
def SeqPos.range : SeqPos → Nat × Nat
  | .disc _ mn mx => (mn, mx)
  | .poll mn mx _ => (mn, mx)
  | _ => (1, Config.nAddr)

/-- The lines of `POLL_RANGE mn, mx` (R191): the preamble; the flags, each computed when its position is
sent (R190); the release; the samples, each classified by the operation the character is (R192). -/
def pollRangeLines (mn mx : Nat) (k : Nat) (s : State) : LineEnd :=
  let j := s.ctl.seq.flagIndex
  let n := s.ctl.seq.sample
  match k with
  | 0 => .call (.sendBreak Config.scPoll) 1 (s.goto (.poll mn mx .brk))
  | 1 => .goOn 2 (s.goto (.poll mn mx (.bitmap 1)))
  | 2 => .call (.putSlot (s.pollFlag mn mx j)) 3 s
  | 3 =>
    if j < Config.nAddr then .goOn 2 (s.goto (.poll mn mx (.bitmap (j + 1))))
    else .goOn 4 (s.goto (.poll mn mx .release))
  | 4 => .call .releaseDe 5 s
  | 5 => .goOn 6 (s.goto (.poll mn mx (.window 1)))
  | 6 =>
    match s.drawRx.1 with
    | none => .goOn 8 s.drawRx.2
    | some c => .call c.instr 7 s.drawRx.2
  | 7 => if s.ctl.answer then .ret s else .goOn 8 s
  | 8 => .goOn 9 s
  | 9 =>
    if n < Config.pollSamples then .goOn 6 (s.goto (.poll mn mx (.window (n + 1))))
    else .goOn 10 s
  | _ => .ret { s with ctl := { s.ctl with answer := false } }

/-- `POLL_RANGE mn, mx` (R191). -/
def execPollRange (mn mx : Nat) (s : State) : Result :=
  inRole .controller s <| perform (.pollRange mn mx) (pollRangeLines mn mx) shortRun s

/-- The lines of `DISCOVER`: the start and the `while` test (R194, lines 0 to 3); the inner loop (R194,
R199, lines 4 to 9); the resolution of a singleton (R195, lines 10 to 13; log 28); the lower half (R196) and the
upper half (R197). Its end is a position of `CYCLE` again (log 10). -/
def discoverLines (k : Nat) (s : State) : LineEnd :=
  let mn := s.ctl.seq.range.1
  let mx := s.ctl.seq.range.2
  match k with
  | 0 => .goOn 1 { s with ctl := { s.ctl with dlCount := 0 } }
  | 1 => .goOn 2 { s with ctl := { s.ctl with dlOverflow := false } }
  | 2 => .call (.pollRange 1 Config.nAddr) 3 (s.goto (.disc .outer 1 Config.nAddr))
  | 3 => if s.ctl.answer then .goOn 4 (s.goto (.disc .outer mn mx)) else .ret (s.goto .boundary)
  | 4 => .goOn 5 (s.goto (.disc .inner 1 Config.nAddr))
  | 5 => branch (mn > Config.nAddr) 2 6 s
  | 6 => .call (.pollRange mn mx) 7 s
  | 7 => branch (s.ctl.answer = true ∧ mn = mx) 10 8 (s.goto (.disc .inner mn mx))
  | 8 => branch (s.ctl.answer = true ∧ mn < mx) 14 9 s
  | 9 => branch (s.ctl.answer = false) 15 5 s
  | 10 => branch (s.ctl.dlCount = Config.listCap) 11 12 s
  | 11 => .ret (State.goto { s with ctl := { s.ctl with dlOverflow := true } } .boundary)
  | 12 =>
    if s.ctl.dlCount < Config.listCap then .goOn 13 (s.listWrite s.ctl.dlCount (BitVec.ofNat 10 mn))
    else .stop (.noSuchEntry s.ctl.dlCount)
  | 13 => .goOn 2 { s with ctl := { s.ctl with dlCount := s.ctl.dlCount + 1 } }
  | 14 => .goOn 5 (s.goto (.disc .inner mn (lowerHalf mn mx)))
  | _ => .goOn 5 (s.goto (.disc .inner (upperHalf mn mx).1 (upperHalf mn mx).2))

/-- `DISCOVER` (R194). -/
def execDiscover (s : State) : Result :=
  inRole .controller s <| perform .discover discoverLines shortRun s

end Sys2Proof.Machine
end

