-- ==== Sys2Proof/Machine/System.lean ====
section
/-! DEFINITION. The tick handler (spec 60_exceptions.md R302) and reset (70_reset_and_hazards.md
R340). -/

namespace Sys2Proof.Machine

/-- One counter's tick (R302): toward zero, clamped, with one expiry on reaching zero. -/
def tickCounter (c : CounterId) (s : State) : State :=
  if s.counter c = 0 then s
  else
    let s := s.setCounter c (s.counter c - 1)
    if s.counter c = 0 then s.expire c else s

/-- `TICK` (R302), one atomic step; its run clears the request (R301). -/
def execTick (s : State) : Result :=
  let s := tickCounter .noData (tickCounter .green (tickCounter .red s))
  .next { s with pendTick := false }

/-- `RESET` (R340): every state element to its reset value, no request pending, every operation in
progress abandoned. The environment goes on, and reset itself emits nothing. -/
def execReset (s : State) : Result :=
  .next (State.resetWith s.par s.env s.out (s.resets + 1))

end Sys2Proof.Machine
end

