-- ==== Sys2Proof/Machine/Dispatch.lean ====
section
/-! DEFINITION. One arm per operation of the opcode table, each one direct call of its meaning. -/

namespace Sys2Proof.Machine

def exec (i : Instr) (s : State) : Host.Outcome State Fault Refusal :=
  match i with
  | .rxBreak => Sys2Proof.Machine.execRxBreak s
  | .rxStrayFe b => Sys2Proof.Machine.execRxStrayFe b s
  | .rxData b => Sys2Proof.Machine.execRxData b s
  | .scData => Sys2Proof.Machine.execScData s
  | .scPoll => Sys2Proof.Machine.execScPoll s
  | .scOther b => Sys2Proof.Machine.execScOther b s
  | .cmdSet a d => Sys2Proof.Machine.execCmdSet a d s
  | .cmdGet a => Sys2Proof.Machine.execCmdGet a s
  | .cmdMax a => Sys2Proof.Machine.execCmdMax a s
  | .cmdOn => Sys2Proof.Machine.execCmdOn s
  | .cmdOff => Sys2Proof.Machine.execCmdOff s
  | .cmdPoll => Sys2Proof.Machine.execCmdPoll s
  | .cmdClear => Sys2Proof.Machine.execCmdClear s
  | .cmdEnq bytes => Sys2Proof.Machine.execCmdEnq bytes s
  | .sendBreak sc => Sys2Proof.Machine.execSendBreak sc s
  | .putSlot b => Sys2Proof.Machine.execPutSlot b s
  | .releaseDe => Sys2Proof.Machine.execReleaseDe s
  | .bareBreak => Sys2Proof.Machine.execBareBreak s
  | .dataFrame => Sys2Proof.Machine.execDataFrame s
  | .checkpoint => Sys2Proof.Machine.execCheckpoint s
  | .cycle => Sys2Proof.Machine.execCycle s
  | .pollRange mn mx => Sys2Proof.Machine.execPollRange mn mx s
  | .discover => Sys2Proof.Machine.execDiscover s
  | .fsStep => Sys2Proof.Machine.execFsStep s
  | .drainOne => Sys2Proof.Machine.execDrainOne s
  | .tick => Sys2Proof.Machine.execTick s
  | .reset => Sys2Proof.Machine.execReset s

end Sys2Proof.Machine
end

