-- ==== Sys2Proof/Machine/Fetch.lean ====
section
/-! DEFINITION. What the block does next: the step boundary's draw (spec 60_exceptions.md R301, R304,
R305), the handlers before the main loop, the operation called last, or the loop of the role
(00_scope.md R15, R18). -/

namespace Sys2Proof.Machine

/-- What a step is to do. -/
inductive Fetched where
  /-- Run `i` from the state. -/
  | run (i : Instr) (s : State)
  /-- The host command taken is illegal (R168). -/
  | illegal (s : State)
  /-- An image that stands for no operation. -/
  | nothing
  deriving DecidableEq, Repr

/-- The main loop's operation when nothing is called: the entry point of the role (R340; R152, R230). -/
def loopInstr (s : State) : Instr :=
  match s.par.role with
  | .controller => .cycle
  | .device => .fsStep

/-- The main loop's next operation: the one called last, decoded from its words, at the line that is next,
or the loop's. -/
def fetchMain (s : State) : Fetched :=
  match s.ops with
  | [] => .run (loopInstr s) s
  | c :: later =>
    match decode c.image with
    | .ok i => .run i { s with ops := later, line := c.line }
    | .error _ => if c.image.fmt = .cmd then .illegal { s with ops := later } else .nothing

/-- The whole block's next operation: reset if the environment applies it, a handler if its request is
pending, else the main loop's. -/
def fetch (s : State) : Fetched :=
  let (e, s) := s.drawEvent
  if e.reset then .run .reset s
  else
    let s := s.raise e
    match s.handler e with
    | some i => .run i s
    | none => fetchMain s

/-- A role in which the operation exists: the present one if it does. -/
def roleFor (i : Instr) (r : Role) : Role :=
  if i.existsIn r then r else if i.existsIn .controller then .controller else .device

/-- The state with an image placed as the operation called last, at its first line and a quiet step
boundary, in a role that has it. -/
def placeImage (s : State) (im : Image) : State :=
  { s with
    par := { s.par with
      role := match decode im with
        | .ok i => roleFor i s.par.role
        | .error _ => s.par.role }
    pendTick := false
    ctl := { s.ctl with pendDrain := false }
    ops := ⟨im, 0⟩ :: s.ops
    env := { s.env with events := s.env.events.push Event.quiet } }

end Sys2Proof.Machine
end

