-- ==== Sys2Proof/Machine/Step.lean ====
section
/-! DEFINITION. One step of the block: what `fetch` finds is run. -/

namespace Sys2Proof.Machine

/-- One step: a handler, or the main loop's next operation (R305). An illegal host command answers `ERR`
(R168). -/
def step (s : State) : Host.Outcome State Fault Refusal :=
  match fetch s with
  | .run i s => exec i s
  | .illegal s => illegalCommand s
  | .nothing => .refused .noOperation

/-- The state with an opcode-table word placed where `step` fetches its next instruction (log 13). -/
def State.withFetchWord (s : State) (nbits w : Nat) : State := placeImage s (tableImage nbits w)

end Sys2Proof.Machine
end

