-- ==== Sys2Proof/Safety.lean ====
section
/-! DEFINITION. What counts as a safe state, in the terms the claims use: the bounds and the control
structure that the spec's rules give every state a run reaches. `Safe` is a conjunction of named checks. -/

namespace Sys2Proof.Machine

/-- Every value a draw will ever answer passes the test. -/
def Draw.all {α : Type} (p : α → Bool) (d : Draw α) : Bool := d.now.all p && p d.rest && d.loop.all p

/-- A step boundary at which the environment raises no request and applies no reset. -/
def Event.isQuiet (e : Event) : Bool := !e.tick && !e.drain && !e.reset

/-- No interrupt request is pending and none will ever be raised, nor reset applied, nor an operation
stopped between two of its lines. -/
def State.undisturbed (s : State) : Bool :=
  !s.pendTick && !s.ctl.pendDrain && s.env.events.all Event.isQuiet && s.env.cut.all Option.isNone

/-- An operation executed now starts at line `k` and is not stopped between two of its lines. -/
def State.runsFrom (s : State) (k : Nat) : Bool := decide (s.line = k) && s.env.cut.next.1.isNone

/-- An operation executed now starts at line `k` and stops after that one line. -/
def State.runsOnly (s : State) (k : Nat) : Bool :=
  decide (s.line = k) && decide (s.env.cut.next.1 = some 0)

/-- The state with `c` as the first answer to where an operation stops. -/
def State.withCut (s : State) (c : Option Nat) : State :=
  { s with env := { s.env with cut := s.env.cut.push c } }

/-- A UART that is always idle and ready. -/
def State.uartReady (s : State) : Bool :=
  s.env.txEmpty.all id && s.env.rxIdle.all id && s.env.txReady.all id

/-- The host presents no command at any checkpoint. -/
def State.noCommands (s : State) : Bool := s.env.present.all not

/-- The bytes the ring holds, oldest first: `count` elements from `tail` on (R32). -/
def State.held (s : State) : List Byte :=
  (List.range (ringCount s.ctl.head s.ctl.tail)).map
    fun k => s.ringRead (s.ctl.tail + BitVec.ofNat 8 k)

/-- The memories are in canonical form, with no element that does not exist (R60). -/
def memoriesOk (s : State) : Bool :=
  Memory.wf chanBlank Config.nSlot s.ctl.chan &&
  Memory.wf ringBlank Config.ringSize s.ctl.rb &&
  Memory.wf listBlank Config.listCap s.ctl.dl

/-- `P_MAX_AT_RESET` and `maxDmxAddr` are in 1..512 (R8, R27). -/
def maxOk (s : State) : Bool := s.par.wf && validSlot s.ctl.maxDmxAddr

/-- At most 10 addresses are discovered, each written and in 1..512 (R30; log 28 for distinct ones). -/
def listOk (s : State) : Bool :=
  decide (s.ctl.dlCount ≤ Config.listCap) &&
  (List.range s.ctl.dlCount).all fun i =>
    match Memory.lookup s.ctl.dl i with
    | some a => validSlot a
    | none => false

/-- A range the inner search forms (R196): its width is a power of two, at most 512, and `mn - 1` a
multiple of it. -/
def censusRange (mn mx : Nat) : Bool :=
  (List.range 10).any fun n =>
    decide (1 ≤ mn) && decide (mn ≤ Config.nAddr + 1) && decide (mx + 1 = mn + 2 ^ n) &&
    decide ((mn - 1) % 2 ^ n = 0)

/-- A range that is polled (R194, R199): one the census forms, and none above 512. -/
def polledRange (mn mx : Nat) : Bool := censusRange mn mx && decide (mn ≤ Config.nAddr)

/-- The position inside a poll (R40). -/
def stageOk : PollStage → Bool
  | .brk | .release => true
  | .bitmap j => decide (1 ≤ j) && decide (j ≤ Config.nAddr)
  | .window k => decide (1 ≤ k) && decide (k ≤ Config.pollSamples)

/-- The sequencer's position (R40). -/
def seqOk (s : State) : Bool :=
  match s.ctl.seq with
  | .boundary => true
  | .frame i => decide (1 ≤ i) && decide (i ≤ Config.nSlot)
  | .disc .outer mn mx => decide (mn = 1) && decide (mx = Config.nAddr)
  | .disc .inner mn mx => censusRange mn mx
  | .poll mn mx stage => polledRange mn mx && stageOk stage

/-- The position while `CYCLE` is at line `k` (R152): `Boundary`, but while a data frame or a run that it
called is under way. -/
def cycleLineOk (k : Nat) (s : State) : Bool :=
  match k with
  | 0 | 4 => true
  | _ => decide (s.ctl.seq = .boundary)

/-- The position while `DATA_FRAME` is at line `k` (R150): a slot that exists from its test on. -/
def dataFrameLineOk (k : Nat) (s : State) : Bool :=
  match s.ctl.seq with
  | .frame i => decide (k ≤ 2) || decide (i ≤ Config.nAddr)
  | _ => decide (k ≤ 1)

/-- The stage a poll is at when line `k` is next (R191). -/
def stageAt (k : Nat) : PollStage → Bool
  | .brk => decide (k = 1)
  | .bitmap _ => decide (k = 2) || decide (k = 3)
  | .release => decide (k = 4) || decide (k = 5)
  | .window _ => decide (6 ≤ k)

/-- The position while `POLL_RANGE mn, mx` is at line `k` (R191). -/
def pollRangeLineOk (mn mx k : Nat) (s : State) : Bool :=
  polledRange mn mx &&
  match s.ctl.seq with
  | .poll mn' mx' stage => decide (k = 0) || (decide (mn' = mn) && decide (mx' = mx) && stageAt k stage)
  | _ => decide (k = 0)

/-- The position, and the entry being appended, while `DISCOVER` is at line `k` (R194 to R199): the range of
the `while` poll until its answer has been tested, then one of the search. -/
def discoverLineOk (k : Nat) (s : State) : Bool :=
  let mn := s.ctl.seq.range.1
  let mx := s.ctl.seq.range.2
  (if k ≤ 2 then true
    else if k ≤ 4 then decide (mn = 1) && decide (mx = Config.nAddr)
    else censusRange mn mx &&
      match s.ctl.seq with
      | .disc .inner _ _ => true
      | .poll _ _ _ => decide (k = 7)
      | _ => false) &&
  (decide (k ≤ 5) || decide (mn ≤ Config.nAddr)) &&
  match k with
  | 12 => decide (s.ctl.dlCount < Config.listCap)
  | 13 => decide (s.ctl.dlCount < Config.listCap) &&
    decide (Memory.lookup s.ctl.dl s.ctl.dlCount = some (BitVec.ofNat 10 mn))
  | 14 => decide (mn < mx)
  | _ => true

/-- The device's counters while a received character is at line `k` (R235, R236): an advance stays in
range. -/
def deviceLineOk (k : Nat) (s : State) : Bool :=
  match k with
  | 12 => !slotWraps s.dev.slot
  | k => decide (k < 18) || decide (s.dev.pollIdx.toNat < Config.nAddr)

/-- What holds while operation `i` is at line `k`; a command past its test has an address in range. -/
def lineOk (s : State) (i : Instr) (k : Nat) : Bool :=
  match i with
  | .cycle => cycleLineOk k s
  | .dataFrame => dataFrameLineOk k s
  | .pollRange mn mx => pollRangeLineOk mn mx k s
  | .discover => discoverLineOk k s
  | .rxBreak | .rxStrayFe _ | .rxData _ => deviceLineOk k s
  | .cmdSet a _ | .cmdGet a | .cmdMax a => decide (k ≠ 1) || validSlot a
  | _ => true

/-- Whether `i`, at a line after which `k` is next, calls operation `j`. -/
def mayCall (s : State) (i : Instr) (k : Nat) (j : Instr) : Bool :=
  match i, k with
  | .cycle, 0 => decide (j = .dataFrame)
  | .cycle, 1 => decide (j = .checkpoint) || decide (j.format = .cmd)
  | .cycle, 4 => decide (j = .discover)
  | .dataFrame, 1 => decide (j = .sendBreak Config.scData)
  | .dataFrame, 4 => (j matches .putSlot _)
  | .dataFrame, 5 => decide (j = .checkpoint) || decide (j.format = .cmd)
  | .discover, 3 => decide (j = .pollRange 1 Config.nAddr)
  | .discover, 7 => decide (j = .pollRange s.ctl.seq.range.1 s.ctl.seq.range.2)
  | .pollRange _ _, 1 => decide (j = .sendBreak Config.scPoll)
  | .pollRange _ _, 3 => (j matches .putSlot _)
  | .pollRange _ _, 5 => decide (j = .releaseDe)
  | .pollRange _ _, 7 => decide (j.format = .rxchar)
  | .fsStep, 0 => decide (j.format = .rxchar) || decide (j.format = .sc) || decide (j = .bareBreak)
  | _, _ => false

/-- The operation of a call; an illegal host command counts as a command (R168). -/
def Call.instr (c : Call) : Option Instr :=
  match decode c.image with
  | .ok i => some i
  | .error _ => if c.image.fmt = .cmd then some .cmdOn else none

/-- Every call is of an operation of the role, well formed and at a line that fits the state; each was
called by the one below it, and the first by nothing: it is the loop of the role (R152, R230). -/
def callsOk (s : State) : List Call → Bool
  | [] => true
  | c :: below =>
    (match c.instr with
      | some i => i.existsIn s.par.role && WellFormed i && lineOk s i c.line &&
        match below with
        | [] => decide (i = loopInstr s)
        | d :: _ => d.instr.any fun caller => mayCall s caller d.line i
      | none => false) &&
    callsOk s below

/-- The operation the main loop goes on with, and the line that is next. -/
def State.top (s : State) : Option (Instr × Nat) :=
  s.ops.head?.bind fun c => c.instr.map fun i => (i, c.line)

/-- Where the run that `CYCLE` called has returned, the position is `Boundary` again (log 10). -/
def returnedOk (s : State) : Bool :=
  match s.top with
  | some (.cycle, 4) => decide (s.ctl.seq = .boundary)
  | _ => true

/-- `baud` is `Slow` exactly between the lines of `SEND_BREAK` and `BARE_BREAK` that write it (R25). -/
def baudOk (s : State) : Bool :=
  decide (s.baud = .slow) ==
    match s.top with
    | some (.sendBreak _, k) => decide (4 ≤ k) && decide (k ≤ 6)
    | some (.bareBreak, k) => decide (2 ≤ k) && decide (k ≤ 4)
    | _ => false

/-- `enq` is `none` exactly between calls (R42). -/
def enqOk (s : State) : Bool :=
  s.ctl.enq.isSome ==
    match s.top with
    | some (.cmdEnq _, k) => decide (1 ≤ k) && decide (k ≤ 3)
    | _ => false

/-- Every byte held was written since reset (R47: nothing unspecified is read). -/
def ringWritten (s : State) : Bool :=
  (List.range (ringCount s.ctl.head s.ctl.tail)).all fun k =>
    (Memory.lookup s.ctl.rb (s.ctl.tail + BitVec.ofNat 8 k).toNat).isSome

/-- The line of an `ENQ` call and what `enq` holds (R270): past the `while` test there is a byte, and only
a numbered step stands past E1. -/
def enqLineOk (c : EnqCall) (k : Nat) : Bool :=
  (decide (k = 1) || !c.left.isEmpty) && (decide (k = 2) || decide (c.at_ = .e1))

/-- The ring at each numbered step of an `ENQ` (R270, R273): where the next step may store or advance, one
more write does not make `head` collide with `tail`; `full = 0` is never wrong; and no byte beyond those
held when `tail` was read has been drained. -/
def ringOk (s : State) : Bool :=
  ringWritten s &&
  match s.ctl.enq with
  | none => s.ctl.full || !ringFull s.ctl.head s.ctl.tail
  | some c =>
    (s.top.all fun t => enqLineOk c t.2) &&
    match c.at_ with
    | .e1 => s.ctl.full || !ringFull s.ctl.head s.ctl.tail
    | .e2 => !ringFull s.ctl.head s.ctl.tail
    | .e3 =>
      !ringFull s.ctl.head s.ctl.tail &&
      decide (Memory.lookup s.ctl.rb s.ctl.head.toNat = c.left.head?)
    | .e4 => true
    | .e5 => decide (ringCount s.ctl.tail c.t ≤ ringCount s.ctl.head c.t)

/-- The device's counters and addresses are in their ranges (R36, R37, R46). -/
def deviceOk (s : State) : Bool :=
  decide (s.dev.slot.toNat ≤ Config.nAddr) && validSlot s.dev.pollIdx && validSlot s.dev.pollAddr &&
  validSlot s.dev.addr

/-- Role Device has no drain request (R301). -/
def requestsOk (s : State) : Bool := decide (s.par.role = .controller) || !s.ctl.pendDrain

/-- No character other than 0x00 has been sent at the slowed rate (R91). -/
def wireOk (s : State) : Bool :=
  s.out.wire.all fun e =>
    match e with
    | .char b .slow => decide (b = 0)
    | _ => true

/-- The invariant of the block at a step boundary. -/
def Safe (s : State) : Bool :=
  memoriesOk s && maxOk s && listOk s && seqOk s && callsOk s s.ops && returnedOk s &&
  decide (s.line = 0) && baudOk s && enqOk s && ringOk s && deviceOk s && requestsOk s && wireOk s

end Sys2Proof.Machine
end

