-- ==== Sys2Proof/Certificates/Slice0/Obligations.lean ====
section
/-! DEFINITION. The statements for the provers. "Stated" ones formalise a numbered rule of spec/; each
docstring names the rule. Where a value or a stop is the model's own choice, the docstring says so and
names the log entry. A statement of an operation's effect takes `runsFrom 0`, executed from its first line
and not stopped on the way (log 8); `StoppedOperationsGoOn` says that a stop changes nothing of it. -/

open Sys2Proof Sys2Proof.Machine

/-! ### Reset and the invariant -/

/-- R47: what every state element holds after reset (`rb` and `dl` are unspecified there). -/
def Obligations.ResetSetsEveryElement : Prop :=
  ∀ s : State, ∃ t : State, exec .reset s = .next t ∧
    t.de = false ∧ t.baud = .nominal ∧
    (∀ i, t.chanRead i = 0) ∧ t.ctl.maxDmxAddr = s.par.maxAtReset ∧ t.ctl.outEn = s.par.outAtReset ∧
    t.ctl.discPending = false ∧ t.ctl.dlCount = 0 ∧ t.ctl.dlOverflow = false ∧
    t.ctl.head = 0 ∧ t.ctl.tail = 0 ∧ t.ctl.full = false ∧ t.ctl.seq = .boundary ∧ t.ctl.enq = none ∧
    t.dev.fs = .idle ∧ t.dev.slot = 0 ∧ t.dev.pollIdx = 1 ∧ t.dev.pollAddr = 1 ∧ t.dev.pollCap = 0 ∧
    t.dev.devVal = 0 ∧ t.dev.duty = 0 ∧ t.dev.actLed = false ∧
    t.tmo.red = 0 ∧ t.tmo.green = 0 ∧ t.tmo.noData = 0

/-- R340: after reset no request is pending and every operation in progress is abandoned; the elements
R47 leaves unspecified read as free values of their own for each reset (log 6); the parameters, the
environment and what was put out stay (log 15). -/
def Obligations.ResetAbandonsEveryOperation : Prop :=
  ∀ s : State, ∃ t : State, exec .reset s = .next t ∧
    t.pendTick = false ∧ t.ctl.pendDrain = false ∧ t.ops = [] ∧ t.line = 0 ∧
    t.resets = s.resets + 1 ∧
    (∀ i, t.listRead i = Config.listAtReset (s.resets + 1) i) ∧
    (∀ i, t.ringRead i = Config.ringAtReset (s.resets + 1) i.toNat) ∧
    t.par = s.par ∧ t.env = s.env ∧ t.out = s.out

/-- The invariant holds at reset. -/
def Obligations.ResetStateIsSafe : Prop := Safe State.reset = true

/-- Every step keeps the invariant. -/
def Obligations.StepKeepsSafe : Prop :=
  ∀ s t : State, Safe s = true → step s = .next t → Safe t = true

/-- R300, R70: no operation can fault and no index leaves its memory; from a state that meets the
invariant the block always takes a step. -/
def Obligations.SafeStateNeverStops : Prop :=
  ∀ s : State, Safe s = true → ∃ t, step s = .next t

/-- R300, R308: every operation of the table is available whenever its role has it. -/
def Obligations.OperationsOfTheRoleComplete : Prop :=
  ∀ (i : Instr) (s : State), Safe s = true → i.existsIn s.par.role = true → ∃ t, exec i s = .next t

/-- R104: which operations exist in which role; the refusal of the others is the model's (log 4). -/
def Obligations.OnlyAbsentOperationsAreRefused : Prop :=
  (∀ (i : Instr) (s : State), i.existsIn s.par.role = false → exec i s = .refused .absentInRole) ∧
  (∀ (i : Instr) (s : State) (r : Refusal), i.existsIn s.par.role = true → exec i s ≠ .refused r)

/-- R300, R60: the only stops below `exec` are accesses to elements that do not exist, in states no run
reaches (`SafeStateNeverStops`); the two faults are the model's (log 20). -/
def Obligations.OnlyNonexistentElementsFault : Prop :=
  (∀ (i : Instr) (s : State) (f : Fault), exec i s = .fault f →
    (∃ k, i = .dataFrame ∧ 512 < k ∧ f = .noSuchSlot k) ∨
    (i = .discover ∧ 10 ≤ s.ctl.dlCount ∧ f = .noSuchEntry s.ctl.dlCount)) ∧
  (∀ (s : State) (k : Nat), s.par.role = .controller → s.runsFrom 2 = true → s.ctl.seq = .frame k →
    512 < k → k ≤ s.ctl.maxDmxAddr.toNat → exec .dataFrame s = .fault (.noSuchSlot k)) ∧
  (∀ s : State, s.par.role = .controller → s.runsFrom 12 = true → 10 ≤ s.ctl.dlCount →
    exec .discover s = .fault (.noSuchEntry s.ctl.dlCount))

/-- R4: the units of one role do not touch the state of the other, and no step changes a parameter. -/
def Obligations.StepsStayInTheirRole : Prop :=
  ∀ s t : State, Safe s = true → s.drawEvent.1.reset = false → step s = .next t →
    t.par = s.par ∧
    (s.par.role = .device → t.ctl = s.ctl) ∧
    (s.par.role = .controller → t.dev = s.dev)

/-! ### Encodings -/

/-- Decoding an encoded well-formed instruction gives it back. -/
def Obligations.DecodeOfEncode : Prop :=
  ∀ i : Instr, WellFormed i = true → decode (encode i) = .ok i

/-- The other direction: but for the unused bytes of an `ENQ` payload, an image that decodes is the one
the instruction encodes to, so no bit of it is without meaning; and its format is the instruction's. -/
def Obligations.EncodeOfDecode : Prop :=
  ∀ (im : Image) (i : Instr), decode im = .ok i →
    i.format = im.fmt ∧ ((∀ bytes, i ≠ .cmdEnq bytes) → encode i = im)

/-- R92: the classes of a received character. -/
def Obligations.RxCharWordsDecode : Prop :=
  ∀ w : BitVec 9, decode ⟨.rxchar, [w.setWidth 32], []⟩ =
    .ok (if w = 0x100 then .rxBreak
      else if w.getLsbD 8 = true then .rxStrayFe (w.setWidth 8)
      else .rxData (w.setWidth 8))

/-- R102: the unassigned step codes stand for no operation, and each assigned one is not rejected as
such. -/
def Obligations.StepCodesAreAssigned : Prop :=
  ∀ (code : Byte) (operands : List Nat),
    decode (stepImage code operands) = .error .unassignedCode ↔ (code.toNat = 0 ∨ 14 ≤ code.toNat)

/-- R99: where the bytes of an `ENQ` lie in its payload. -/
def Obligations.EnqBytesComeFromTheirBits : Prop :=
  ∀ (h : Word) (payload : List Word) (bytes : List Byte),
    decode ⟨.cmd, h :: payload, []⟩ = .ok (.cmdEnq bytes) →
    bytes.length = (cmdA h).toNat ∧ payload.length = ((cmdA h).toNat + 3) / 4 ∧
    ∀ k, k < bytes.length →
      bytes[k]? = (payload[k / 4]?).map fun w => w.extractLsb' (8 * (k % 4)) 8

/-- Words written out from the spec's encodings (R92, R94, R98, R99, R102). -/
def Obligations.SpecWordsDecode : Prop :=
  decode ⟨.rxchar, [0x180], []⟩ = .ok (.rxStrayFe 0x80) ∧
  decode ⟨.sc, [0xF0], []⟩ = .ok .scPoll ∧
  decode ⟨.cmd, [0x1005000A], []⟩ = .ok (.cmdSet 5 10) ∧
  decode ⟨.cmd, [0x80020000, 0x00006B6F], []⟩ = .ok (.cmdEnq [0x6F, 0x6B]) ∧
  decode ⟨.seq, [0x0B], []⟩ = .ok .drainOne

/-! ### The step -/

/-- A step runs the decoded instruction: at a quiet step boundary with no request pending, the operation
called last, at the line that is next; and when none is called, the entry point of the role, `CYCLE` in
role Controller and `FS_STEP` in role Device (R340, R15). -/
def Obligations.StepRunsDecodedInstruction : Prop :=
  ∀ s : State, s.pendTick = false → s.ctl.pendDrain = false → s.env.events.next.1.isQuiet = true →
    (∀ c later i, s.ops = c :: later → decode c.image = .ok i →
      step s = exec i { s with
        ops := later, line := c.line, env := { s.env with events := s.env.events.next.2 } }) ∧
    (s.ops = [] → s.par.role = .controller →
      step s = exec .cycle { s with env := { s.env with events := s.env.events.next.2 } }) ∧
    (s.ops = [] → s.par.role = .device →
      step s = exec .fsStep { s with env := { s.env with events := s.env.events.next.2 } })

/-- An opcode-table word placed by `withFetchWord` is what the next step runs, in a role that has it; the
placing is the model's (log 13). -/
def Obligations.StepRunsPlacedWord : Prop :=
  ∀ (s : State) (nbits w : Nat) (i : Instr), decodeTableWord nbits w = some i →
    ∃ r : Role, i.existsIn r = true ∧ (i.existsIn s.par.role = true → r = s.par.role) ∧
      step (s.withFetchWord nbits w) = exec i { s with
        par := { s.par with role := r }, pendTick := false, line := 0
        ctl := { s.ctl with pendDrain := false } }

/-- R304, R340: at a step boundary, reset is applied if the draw says so (log 16); else a pending request
is taken before the main loop's next step, both pending run in either order, the draw deciding, and both
orders give the same state. -/
def Obligations.RequestsAreTakenFirstInEitherOrder : Prop :=
  (∀ s : State, s.drawEvent.1.reset = true → step s = exec .reset s.drawEvent.2) ∧
  (∀ s u : State, s.drawEvent.1.reset = false → u = s.drawEvent.2.raise s.drawEvent.1 →
    (u.pendTick = true → u.ctl.pendDrain = false → step s = exec .tick u) ∧
    (u.pendTick = false → u.ctl.pendDrain = true → step s = exec .drainOne u) ∧
    (u.pendTick = true → u.ctl.pendDrain = true →
      step s = if s.drawEvent.1.tickFirst then exec .tick u else exec .drainOne u)) ∧
  (∀ s : State, s.par.role = .controller →
    ∃ a b t : State, exec .tick s = .next a ∧ exec .drainOne a = .next t ∧
      exec .drainOne s = .next b ∧ exec .tick b = .next t)

/-- R306: a handler leaves the control state, the bus and the operations called as they are. -/
def Obligations.HandlersLeaveControlState : Prop :=
  ∀ (i : Instr) (s t : State), i = .tick ∨ i = .drainOne → exec i s = .next t →
    t.ops = s.ops ∧ t.line = s.line ∧ t.ctl.seq = s.ctl.seq ∧ t.ctl.enq = s.ctl.enq ∧
    t.ctl.answer = s.ctl.answer ∧
    t.dev = { s.dev with actLed := t.dev.actLed } ∧
    t.de = s.de ∧ t.baud = s.baud ∧ t.out.wire = s.out.wire ∧ t.out.resp = s.out.resp ∧
    t.ctl.chan = s.ctl.chan ∧ t.ctl.rb = s.ctl.rb ∧ t.ctl.head = s.ctl.head

/-- R305, R306: an operation stopped between two of its lines stands called at the line that is next, and
executed there it does the rest: stopped and gone on with, it ends as if it had not been stopped. The
draw that stops it is the model's (log 8). -/
def Obligations.StoppedOperationsGoOn : Prop :=
  ∀ (i : Instr) (s : State) (n : Nat), i ≠ .tick → i ≠ .drainOne → i ≠ .reset →
    exec i (s.withCut (some n)) = exec i (s.withCut none) ∨
    ∃ (u : State) (k : Nat),
      exec i (s.withCut (some n)) = .next { u with ops := ⟨encode i, k⟩ :: u.ops } ∧
      exec i { u.withCut none with line := k } = exec i (s.withCut none)

/-- R302: the tick. -/
def Obligations.TickCountsDownAndExpires : Prop :=
  ∀ s : State, ∃ t : State, exec .tick s = .next t ∧
    t.tmo = ⟨s.tmo.red - 1, s.tmo.green - 1, s.tmo.noData - 1⟩ ∧
    t.out.fired = s.out.fired ++
      [CounterId.red, .green, .noData].filter (fun c => decide (s.counter c = 1)) ∧
    (s.par.role = .controller → t.dev = s.dev) ∧
    (s.par.role = .device → t.dev.actLed =
      ([CounterId.red, .green, .noData].filter (fun c => decide (s.counter c = 1))).foldl
        (fun v c => ledAfter (s.par.expire c) v) s.dev.actLed) ∧
    t = { s with
      tmo := t.tmo, pendTick := false, dev := { s.dev with actLed := t.dev.actLed }
      out := { s.out with fired := t.out.fired } }

/-! ### Host commands -/

/-- R160: `SET a, d`. -/
def Obligations.SetWritesItsSlot : Prop :=
  ∀ (s : State) (a : Addr) (d : Byte), s.par.role = .controller → s.runsFrom 0 = true →
    ∃ t : State, exec (.cmdSet a d) s = .next t ∧
      (1 ≤ a.toNat ∧ a.toNat ≤ 512 →
        (∀ i, t.chanRead i = if i = a.toNat then d else s.chanRead i) ∧
        t.out.resp = s.out.resp ++ [.ok]) ∧
      (¬(1 ≤ a.toNat ∧ a.toNat ≤ 512) →
        t.ctl.chan = s.ctl.chan ∧ t.out.resp = s.out.resp ++ [.err]) ∧
      t = { s.started with
        ctl := { s.ctl with chan := t.ctl.chan }, out := { s.out with resp := t.out.resp } }

/-- The source's property of `SET` and `GET` (R160, W1). -/
def Obligations.SetThenGetReturnsData : Prop :=
  ∀ (s : State) (a : Addr) (d : Byte), s.par.role = .controller → s.runsFrom 0 = true →
    s.started.runsFrom 0 = true → 1 ≤ a.toNat → a.toNat ≤ 512 →
    ∃ t u : State, exec (.cmdSet a d) s = .next t ∧ exec (.cmdGet a) t = .next u ∧
      u.out.resp = s.out.resp ++ [.ok, .val d]

/-- R161: `GET a`. -/
def Obligations.GetAnswersTheSlot : Prop :=
  ∀ (s : State) (a : Addr), s.par.role = .controller → s.runsFrom 0 = true →
    exec (.cmdGet a) s = .next { s.started with
      out := { s.out with resp := s.out.resp ++
        [if 1 ≤ a.toNat ∧ a.toNat ≤ 512 then .val (s.chanRead a.toNat) else .err] } }

/-- R162 to R165: `MAX`, `ON`, `OFF` and `POLL` each write their one register, and all but `POLL`
respond. -/
def Obligations.RegisterCommandsWriteTheirRegister : Prop :=
  ∀ s : State, s.par.role = .controller → s.runsFrom 0 = true →
    (∀ a : Addr, 1 ≤ a.toNat → a.toNat ≤ 512 → exec (.cmdMax a) s = .next { s.started with
      ctl := { s.ctl with maxDmxAddr := a }, out := { s.out with resp := s.out.resp ++ [.ok] } }) ∧
    (∀ a : Addr, ¬(1 ≤ a.toNat ∧ a.toNat ≤ 512) → exec (.cmdMax a) s = .next { s.started with
      out := { s.out with resp := s.out.resp ++ [.err] } }) ∧
    exec .cmdOn s = .next { s.started with
      ctl := { s.ctl with outEn := true }, out := { s.out with resp := s.out.resp ++ [.ok] } } ∧
    exec .cmdOff s = .next { s.started with
      ctl := { s.ctl with outEn := false }, out := { s.out with resp := s.out.resp ++ [.ok] } } ∧
    exec .cmdPoll s = .next { s.started with ctl := { s.ctl with discPending := true } }

/-- R166: `CLEAR`. -/
def Obligations.ClearZeroesEverySlot : Prop :=
  ∀ s : State, s.par.role = .controller → s.runsFrom 0 = true →
    ∃ t : State, exec .cmdClear s = .next t ∧
      (∀ i, t.chanRead i = if i ≤ 512 then 0 else s.chanRead i) ∧
      t = { s.started with
        ctl := { s.ctl with chan := t.ctl.chan }
        out := { s.out with resp := s.out.resp ++ [.ok] } }

/-- R169: a command writes only the channel frame, `maxDmxAddr`, `outEn`, `discPending`, the ring and the
response port; stopped between two of its lines it also stays called (logs 7 and 8). -/
def Obligations.CommandsNeverTouchTheBus : Prop :=
  ∀ (i : Instr) (s t : State), i.format = .cmd → exec i s = .next t →
    t = { s.started with
      ctl := { s.ctl with
        chan := t.ctl.chan, maxDmxAddr := t.ctl.maxDmxAddr, outEn := t.ctl.outEn,
        discPending := t.ctl.discPending, rb := t.ctl.rb, head := t.ctl.head, full := t.ctl.full,
        enq := t.ctl.enq }
      ops := t.ops
      out := { s.out with resp := t.out.resp } } ∧
    (t.ops = s.ops ∨ ∃ k, t.ops = ⟨encode i, k⟩ :: s.ops) ∧
    ((∀ bytes, i ≠ .cmdEnq bytes) → t.ctl.rb = s.ctl.rb ∧ t.ctl.head = s.ctl.head ∧
      t.ctl.full = s.ctl.full ∧ t.ctl.enq = s.ctl.enq)

/-- R100: a command word with a reserved OP, a nonzero reserved field or a nonzero field its command does
not use writes no state, and the response is `ERR`. -/
def Obligations.IllegalCommandsAnswerErr : Prop :=
  ∀ (s : State) (h : Word) (payload : List Word) (k : Nat) (later : List Call),
    s.par.role = .controller →
    s.pendTick = false → s.ctl.pendDrain = false → s.env.events.next.1.isQuiet = true →
    s.ops = ⟨⟨.cmd, h :: payload, []⟩, k⟩ :: later →
    (cmdOp h).toNat = 0 ∨ 9 ≤ (cmdOp h).toNat ∨ cmdReservedHigh h ≠ 0 ∨ cmdReservedLow h ≠ 0 ∨
      (cmdOp h ≠ 1 ∧ cmdD h ≠ 0) ∨
      (4 ≤ (cmdOp h).toNat ∧ (cmdOp h).toNat ≤ 7 ∧ cmdA h ≠ 0) →
    step s = .next { s with
      ops := later
      env := { s.env with events := s.env.events.next.2 }
      out := { s.out with resp := s.out.resp ++ [.err] } }

/-! ### The ring -/

/-- R275, R274: with no drain inside it, an `ENQ` stores exactly the prefix that fits below 255 bytes; one
that observes `full = 1` at its start, or has no byte, stores nothing and answers `OK` all the same (R270,
R167). -/
def Obligations.EnqueueStoresThePrefixThatFits : Prop :=
  ∀ (s : State) (bytes : List Byte), s.par.role = .controller → s.runsFrom 0 = true →
    (s.ctl.full = false → s.ctl.head + 1 ≠ s.ctl.tail →
      ∃ t : State, exec (.cmdEnq bytes) s = .next t ∧
        t.held = s.held ++ bytes.take (255 - ringCount s.ctl.head s.ctl.tail) ∧
        t.ctl.head = s.ctl.head +
          BitVec.ofNat 8 (min bytes.length (255 - ringCount s.ctl.head s.ctl.tail)) ∧
        t.ctl.full = decide (t.ctl.head + 1 = t.ctl.tail) ∧
        (∀ k, min bytes.length (255 - ringCount s.ctl.head s.ctl.tail) ≤ k → k < 256 →
          t.ringRead (s.ctl.head + BitVec.ofNat 8 k) = s.ringRead (s.ctl.head + BitVec.ofNat 8 k)) ∧
        t = { s.started with
          ctl := { s.ctl with rb := t.ctl.rb, head := t.ctl.head, full := t.ctl.full, enq := none }
          out := { s.out with resp := s.out.resp ++ [.ok] } }) ∧
    (s.ctl.full = true ∨ bytes = [] →
      exec (.cmdEnq bytes) s = .next { s.started with
        ctl := { s.ctl with enq := none }, out := { s.out with resp := s.out.resp ++ [.ok] } })

/-- R270, R305: the lines of `ENQ`, each a step that the call can be stopped after: `k <- 0` (line 0), the
`while` test (line 1), the numbered steps E1 to E5 (line 2), `k <- k + 1` (line 3) and the response. The
numbers of the lines, and that a stopped call stays called, are the model's (logs 7 to 9). -/
def Obligations.EnqueueRunsItsNumberedSteps : Prop :=
  ∀ (s : State) (bytes rest : List Byte) (b t0 : Byte), s.par.role = .controller →
    (s.runsOnly 0 = true →
      ∃ t1, exec (.cmdEnq bytes) s = .next { s.started with
        ctl := { s.ctl with enq := some ⟨bytes, .e1, t1⟩ }
        ops := ⟨encode (.cmdEnq bytes), 1⟩ :: s.ops }) ∧
    (s.runsOnly 1 = true → s.ctl.enq = some ⟨b :: rest, .e1, t0⟩ →
      exec (.cmdEnq bytes) s = .next { s.started with
        ops := ⟨encode (.cmdEnq bytes), 2⟩ :: s.ops }) ∧
    (s.runsOnly 1 = true → s.ctl.enq = some ⟨[], .e1, t0⟩ →
      exec (.cmdEnq bytes) s = .next { s.started with
        ctl := { s.ctl with enq := none }, ops := ⟨encode (.cmdEnq bytes), 4⟩ :: s.ops }) ∧
    (s.runsOnly 2 = true → s.ctl.full = true → s.ctl.enq = some ⟨b :: rest, .e1, t0⟩ →
      exec (.cmdEnq bytes) s = .next { s.started with
        ctl := { s.ctl with enq := none }, ops := ⟨encode (.cmdEnq bytes), 4⟩ :: s.ops }) ∧
    (s.runsOnly 2 = true → s.ctl.full = false → s.ctl.enq = some ⟨b :: rest, .e1, t0⟩ →
      exec (.cmdEnq bytes) s = .next { s.started with
        ctl := { s.ctl with enq := some ⟨b :: rest, .e2, t0⟩ }
        ops := ⟨encode (.cmdEnq bytes), 2⟩ :: s.ops }) ∧
    (s.runsOnly 2 = true → s.ctl.enq = some ⟨b :: rest, .e2, t0⟩ →
      ∃ t : State, exec (.cmdEnq bytes) s = .next t ∧
        (∀ i, t.ringRead i = if i = s.ctl.head then b else s.ringRead i) ∧
        t = { s.started with
          ctl := { s.ctl with rb := t.ctl.rb, enq := some ⟨b :: rest, .e3, t0⟩ }
          ops := ⟨encode (.cmdEnq bytes), 2⟩ :: s.ops }) ∧
    (s.runsOnly 2 = true → s.ctl.enq = some ⟨b :: rest, .e3, t0⟩ →
      exec (.cmdEnq bytes) s = .next { s.started with
        ctl := { s.ctl with head := s.ctl.head + 1, enq := some ⟨b :: rest, .e4, t0⟩ }
        ops := ⟨encode (.cmdEnq bytes), 2⟩ :: s.ops }) ∧
    (s.runsOnly 2 = true → s.ctl.enq = some ⟨b :: rest, .e4, t0⟩ →
      exec (.cmdEnq bytes) s = .next { s.started with
        ctl := { s.ctl with enq := some ⟨b :: rest, .e5, s.ctl.tail⟩ }
        ops := ⟨encode (.cmdEnq bytes), 2⟩ :: s.ops }) ∧
    (s.runsOnly 2 = true → s.ctl.enq = some ⟨b :: rest, .e5, t0⟩ →
      exec (.cmdEnq bytes) s = .next { s.started with
        ctl := { s.ctl with
          full := decide (s.ctl.head + 1 = t0), enq := some ⟨b :: rest, .e1, t0⟩ }
        ops := ⟨encode (.cmdEnq bytes), 3⟩ :: s.ops }) ∧
    (s.runsOnly 3 = true → s.ctl.enq = some ⟨b :: rest, .e1, t0⟩ →
      exec (.cmdEnq bytes) s = .next { s.started with
        ctl := { s.ctl with enq := some ⟨rest, .e1, t0⟩ }
        ops := ⟨encode (.cmdEnq bytes), 1⟩ :: s.ops }) ∧
    (s.runsOnly 4 = true →
      exec (.cmdEnq bytes) s = .next { s.started with
        out := { s.out with resp := s.out.resp ++ [.ok] } })

/-- R271: `DRAIN_ONE`. -/
def Obligations.DrainPopsOneByte : Prop :=
  ∀ s : State, s.par.role = .controller →
    (s.ctl.head = s.ctl.tail → exec .drainOne s = .next { s with
      ctl := { s.ctl with full := decide (s.ctl.head + 1 = s.ctl.tail), pendDrain := false } }) ∧
    (s.ctl.head ≠ s.ctl.tail → exec .drainOne s = .next { s with
      ctl := { s.ctl with
        tail := s.ctl.tail + 1, full := decide (s.ctl.head + 1 = s.ctl.tail + 1), pendDrain := false }
      out := { s.out with console := s.out.console ++ [s.ringRead s.ctl.tail] } })

/-- R273: whatever a step does, the bytes handed to the console followed by those held are the earlier
ones with newly stored bytes after them: none is lost, overwritten, repeated or reordered. -/
def Obligations.BytesPassTheRingInOrder : Prop :=
  ∀ s t : State, Safe s = true → s.drawEvent.1.reset = false → step s = .next t →
    (∃ stored : List Byte,
      t.out.console ++ t.held = s.out.console ++ s.held ++ stored) ∧
    (∃ drained : List Byte, t.out.console = s.out.console ++ drained)

/-- The last item of R273 read literally: outside E3 to E5, `full = 1` implies at least 254 bytes held. It
FAILS: two drains between E4 and E5 (R73 and R305 admit any number) leave 253 (log 21). -/
def Obligations.FullMeansAtLeast254Held : Prop :=
  ∀ s t : State, Safe s = true → step s = .next t →
    ((∀ c, s.ctl.enq = some c → c.at_ ≠ .e4 ∧ c.at_ ≠ .e5) → s.ctl.full = true →
      254 ≤ ringCount s.ctl.head s.ctl.tail) →
    ((∀ c, t.ctl.enq = some c → c.at_ ≠ .e4 ∧ c.at_ ≠ .e5) → t.ctl.full = true →
      254 ≤ ringCount t.ctl.head t.ctl.tail)

/-! ### The framer -/

/-- R121, R350, R12: `SEND_BREAK sc` with the UART idle and ready sends one preamble. It holds before its
first line while the line is not idle, having done nothing; after the Break, at the slow rate, while the
Break is shifted out; and at each of its two characters while the transmitter cannot accept it. A lifted
hold ends it. The line numbers and the form of a hold are the model's (logs 7, 8). -/
def Obligations.SendBreakSendsOnePreamble : Prop :=
  ∀ (s : State) (sc : Byte), s.par.role = .controller →
    (s.runsFrom 0 = true → (s.env.txEmpty.next.1 && s.env.rxIdle.next.1) = true →
      (s.env.txReady.next.1 && s.env.txReady.next.2.next.1) = true → s.env.txEmpty.next.2.next.1 = true →
      exec (.sendBreak sc) s = .next { s.started with
        de := true, baud := .nominal
        env := { s.started.env with
          txEmpty := s.env.txEmpty.next.2.next.2, rxIdle := s.env.rxIdle.next.2,
          txReady := s.env.txReady.next.2.next.2 }
        out := { s.out with wire :=
          s.out.wire ++ (if s.de then [] else [.de true]) ++ [.brk, .byte sc] } }) ∧
    (s.runsFrom 0 = true → (s.env.txEmpty.next.1 && s.env.rxIdle.next.1) = false →
      exec (.sendBreak sc) s = .next { s.started with
        ops := ⟨encode (.sendBreak sc), 0⟩ :: s.ops
        env := { s.started.env with
          txEmpty := s.env.txEmpty.next.2, rxIdle := s.env.rxIdle.next.2 } }) ∧
    (s.runsFrom 0 = true → (s.env.txEmpty.next.1 && s.env.rxIdle.next.1) = true →
      s.env.txReady.next.1 = false →
      exec (.sendBreak sc) s = .next { s.started with
        de := true, baud := .slow
        ops := ⟨encode (.sendBreak sc), 4⟩ :: s.ops
        env := { s.started.env with
          txEmpty := s.env.txEmpty.next.2, rxIdle := s.env.rxIdle.next.2,
          txReady := s.env.txReady.next.2 }
        out := { s.out with wire := s.out.wire ++ if s.de then [] else [.de true] } }) ∧
    (s.runsFrom 0 = true → (s.env.txEmpty.next.1 && s.env.rxIdle.next.1) = true →
      s.env.txReady.next.1 = true → s.env.txEmpty.next.2.next.1 = false →
      exec (.sendBreak sc) s = .next { s.started with
        de := true, baud := .slow
        ops := ⟨encode (.sendBreak sc), 5⟩ :: s.ops
        env := { s.started.env with
          txEmpty := s.env.txEmpty.next.2.next.2, rxIdle := s.env.rxIdle.next.2,
          txReady := s.env.txReady.next.2 }
        out := { s.out with wire :=
          s.out.wire ++ (if s.de then [] else [.de true]) ++ [.brk] } }) ∧
    (∀ k, (k = 4 ∨ k = 7) → s.runsFrom k = true → s.env.txReady.next.1 = false →
      exec (.sendBreak sc) s = .next { s.started with
        ops := ⟨encode (.sendBreak sc), k⟩ :: s.ops
        env := { s.started.env with txReady := s.env.txReady.next.2 } }) ∧
    (s.runsFrom 4 = true → s.env.txEmpty.next.1 = true →
      (s.env.txReady.next.1 && s.env.txReady.next.2.next.1) = true →
      exec (.sendBreak sc) s = .next { s.started with
        baud := .nominal
        env := { s.started.env with
          txEmpty := s.env.txEmpty.next.2, txReady := s.env.txReady.next.2.next.2 }
        out := { s.out with wire := s.out.wire ++ [.char 0 s.baud, .byte sc] } }) ∧
    (s.runsFrom 5 = true → s.env.txEmpty.next.1 = false →
      exec (.sendBreak sc) s = .next { s.started with
        ops := ⟨encode (.sendBreak sc), 5⟩ :: s.ops
        env := { s.started.env with txEmpty := s.env.txEmpty.next.2 } }) ∧
    (s.runsFrom 5 = true → s.env.txEmpty.next.1 = true → s.env.txReady.next.1 = false →
      exec (.sendBreak sc) s = .next { s.started with
        baud := .nominal
        ops := ⟨encode (.sendBreak sc), 7⟩ :: s.ops
        env := { s.started.env with
          txEmpty := s.env.txEmpty.next.2, txReady := s.env.txReady.next.2 } }) ∧
    (s.runsFrom 5 = true → s.env.txEmpty.next.1 = true → s.env.txReady.next.1 = true →
      exec (.sendBreak sc) s = .next { s.started with
        baud := .nominal
        env := { s.started.env with
          txEmpty := s.env.txEmpty.next.2, txReady := s.env.txReady.next.2 }
        out := { s.out with wire := s.out.wire ++ [.byte sc] } }) ∧
    (s.runsFrom 7 = true → s.env.txReady.next.1 = true →
      exec (.sendBreak sc) s = .next { s.started with
        env := { s.started.env with txReady := s.env.txReady.next.2 }
        out := { s.out with wire := s.out.wire ++ [.char sc s.baud] } })

/-- R122, R123, R12: `PUT_SLOT b` and `RELEASE_DE`, with their holds; `PUT_SLOT` has the hold of its first
line and that of its `UartPut`. The character goes at the baud mode, `BYTE(b)` at the nominal one (log
19); the line numbers and the form of a hold are the model's (logs 7, 8). -/
def Obligations.SlotAndReleaseActOnTheLine : Prop :=
  ∀ s : State, s.par.role = .controller →
    (∀ b : Byte, s.runsFrom 0 = true → s.env.txReady.next.1 = true → s.env.txReady.next.2.next.1 = true →
      exec (.putSlot b) s = .next { s.started with
        env := { s.started.env with txReady := s.env.txReady.next.2.next.2 }
        out := { s.out with wire := s.out.wire ++ [.char b s.baud] } }) ∧
    (∀ b : Byte, s.runsFrom 0 = true → s.env.txReady.next.1 = true → s.env.txReady.next.2.next.1 = false →
      exec (.putSlot b) s = .next { s.started with
        ops := ⟨encode (.putSlot b), 1⟩ :: s.ops
        env := { s.started.env with txReady := s.env.txReady.next.2.next.2 } }) ∧
    (∀ (b : Byte) (k : Nat), (k = 0 ∨ k = 1) → s.runsFrom k = true → s.env.txReady.next.1 = false →
      exec (.putSlot b) s = .next { s.started with
        ops := ⟨encode (.putSlot b), k⟩ :: s.ops
        env := { s.started.env with txReady := s.env.txReady.next.2 } }) ∧
    (∀ b : Byte, s.runsFrom 1 = true → s.env.txReady.next.1 = true →
      exec (.putSlot b) s = .next { s.started with
        env := { s.started.env with txReady := s.env.txReady.next.2 }
        out := { s.out with wire := s.out.wire ++ [.char b s.baud] } }) ∧
    (s.runsFrom 0 = true → s.env.txEmpty.next.1 = true →
      exec .releaseDe s = .next { s.started with
        de := false
        env := { s.started.env with txEmpty := s.env.txEmpty.next.2 }
        out := { s.out with wire := s.out.wire ++ if s.de then [.de false] else [] } }) ∧
    (s.runsFrom 0 = true → s.env.txEmpty.next.1 = false →
      exec .releaseDe s = .next { s.started with
        ops := ⟨encode .releaseDe, 0⟩ :: s.ops
        env := { s.started.env with txEmpty := s.env.txEmpty.next.2 } })

/-- R124, R12: `BARE_BREAK`, with its two holds: at its character while the transmitter cannot accept it,
and while the Break is shifted out. The line numbers and the form of a hold are the model's (logs 7, 8). -/
def Obligations.BareBreakAnswersThePoll : Prop :=
  ∀ s : State, s.par.role = .device →
    (s.runsFrom 0 = true → s.env.txReady.next.1 = true → s.env.txEmpty.next.1 = true →
      exec .bareBreak s = .next { s.started with
        de := false, baud := .nominal
        env := { s.started.env with
          txEmpty := s.env.txEmpty.next.2, txReady := s.env.txReady.next.2 }
        out := { s.out with wire :=
          s.out.wire ++ (if s.de then [] else [.de true]) ++ [.brk, .de false] } }) ∧
    (s.runsFrom 0 = true → s.env.txReady.next.1 = false →
      exec .bareBreak s = .next { s.started with
        de := true, baud := .slow
        ops := ⟨encode .bareBreak, 2⟩ :: s.ops
        env := { s.started.env with txReady := s.env.txReady.next.2 }
        out := { s.out with wire := s.out.wire ++ if s.de then [] else [.de true] } }) ∧
    (s.runsFrom 0 = true → s.env.txReady.next.1 = true → s.env.txEmpty.next.1 = false →
      exec .bareBreak s = .next { s.started with
        de := true, baud := .slow
        ops := ⟨encode .bareBreak, 3⟩ :: s.ops
        env := { s.started.env with
          txEmpty := s.env.txEmpty.next.2, txReady := s.env.txReady.next.2 }
        out := { s.out with wire :=
          s.out.wire ++ (if s.de then [] else [.de true]) ++ [.brk] } }) ∧
    (s.runsFrom 2 = true → s.env.txReady.next.1 = false →
      exec .bareBreak s = .next { s.started with
        ops := ⟨encode .bareBreak, 2⟩ :: s.ops
        env := { s.started.env with txReady := s.env.txReady.next.2 } }) ∧
    (s.runsFrom 2 = true → s.env.txReady.next.1 = true → s.env.txEmpty.next.1 = true →
      exec .bareBreak s = .next { s.started with
        de := false, baud := .nominal
        env := { s.started.env with
          txEmpty := s.env.txEmpty.next.2, txReady := s.env.txReady.next.2 }
        out := { s.out with wire :=
          s.out.wire ++ [.char 0 s.baud] ++ if s.de then [.de false] else [] } }) ∧
    (s.runsFrom 3 = true → s.env.txEmpty.next.1 = true →
      exec .bareBreak s = .next { s.started with
        de := false, baud := .nominal
        env := { s.started.env with txEmpty := s.env.txEmpty.next.2 }
        out := { s.out with wire := s.out.wire ++ if s.de then [.de false] else [] } }) ∧
    (s.runsFrom 3 = true → s.env.txEmpty.next.1 = false →
      exec .bareBreak s = .next { s.started with
        ops := ⟨encode .bareBreak, 3⟩ :: s.ops
        env := { s.started.env with txEmpty := s.env.txEmpty.next.2 } })

/-! ### The controller sequencer -/

/-- R150: `DATA_FRAME` from its start and from where each operation it calls has returned: the preamble;
`i <- 1`; after a slot its checkpoint; after the checkpoint `i + 1`. `maxDmxAddr` and the slot are read
when the slot is sent. The line numbers, that the operations are called, and that the frame ends at
`Boundary` are the model's form (logs 7, 9, 10). -/
def Obligations.DataFramePass : Prop :=
  ∀ s : State, s.par.role = .controller →
    (s.runsFrom 0 = true →
      exec .dataFrame s = .next { s.started with
        ops := ⟨encode (.sendBreak 0x00), 0⟩ :: ⟨encode .dataFrame, 1⟩ :: s.ops }) ∧
    (s.runsFrom 1 = true → 1 ≤ s.ctl.maxDmxAddr.toNat →
      exec .dataFrame s = .next { s.started with
        ctl := { s.ctl with seq := .frame 1 }
        ops := ⟨encode (.putSlot (s.chanRead 1)), 0⟩ :: ⟨encode .dataFrame, 4⟩ :: s.ops }) ∧
    (s.runsFrom 4 = true →
      exec .dataFrame s = .next { s.started with
        ops := ⟨encode .checkpoint, 0⟩ :: ⟨encode .dataFrame, 5⟩ :: s.ops }) ∧
    (∀ i, s.runsFrom 5 = true → s.ctl.seq = .frame i → i + 1 ≤ s.ctl.maxDmxAddr.toNat →
      s.ctl.maxDmxAddr.toNat ≤ 512 →
      exec .dataFrame s = .next { s.started with
        ctl := { s.ctl with seq := .frame (i + 1) }
        ops := ⟨encode (.putSlot (s.chanRead (i + 1))), 0⟩ :: ⟨encode .dataFrame, 4⟩ :: s.ops }) ∧
    (∀ i, s.runsFrom 5 = true → s.ctl.seq = .frame i → s.ctl.maxDmxAddr.toNat < i + 1 →
      exec .dataFrame s = .next { s.started with ctl := { s.ctl with seq := .boundary } })

/-- R95, R150, R129: with no command inside it, a data frame on the wire is the preamble and slots 1 to
`maxDmxAddr` in order, `de` stays 1 and the channel frame is unchanged; the position is `Boundary` again
(log 10). -/
def Obligations.DataFrameOnTheWire : Prop :=
  ∀ (s : State) (later : List Call), s.par.role = .controller → s.undisturbed = true →
    s.uartReady = true → s.noCommands = true →
    1 ≤ s.ctl.maxDmxAddr.toNat → s.ctl.maxDmxAddr.toNat ≤ 512 →
    s.ops = ⟨encode .dataFrame, 0⟩ :: later →
    ∃ (n : Nat) (t : State), Host.Core.run Sys2Proof.core n s = .next t ∧
      t.out.wire = s.out.wire ++ (if s.de then [] else [.de true]) ++ [.brk, .byte 0x00] ++
        (List.range s.ctl.maxDmxAddr.toNat).map (fun k => .byte (s.chanRead (k + 1))) ∧
      t.ctl = { s.ctl with seq := .boundary } ∧ t.ops = later ∧ t.de = true ∧ t.baud = .nominal ∧
      t.out.resp = s.out.resp

/-- R151, R99: `CHECKPOINT` takes at most one command, whose header tells how many words it has, and the
command becomes the next operation; without one nothing happens. That the words and the presence are two
draws is the model's form (log 14). -/
def Obligations.CheckpointTakesOneCommand : Prop :=
  ∀ s : State, s.par.role = .controller → s.runsFrom 0 = true →
    (∀ (h : Word) (payload : List Word), s.env.present.next.1 = true →
      payload.length = (if cmdOp h = 8 then ((cmdA h).toNat + 3) / 4 else 0) →
      s.env.cmd.take (payload.length + 1) = h :: payload →
      exec .checkpoint s = .next { s.started with
        ops := ⟨⟨.cmd, h :: payload, []⟩, 0⟩ :: s.ops
        env := { s.started.env with
          present := s.env.present.next.2, cmd := s.env.cmd.drop (payload.length + 1) } }) ∧
    (s.env.present.next.1 = false →
      exec .checkpoint s = .next { s.started with
        env := { s.started.env with present := s.env.present.next.2 } })

/-- R152: `CYCLE` from its start and from where each operation it calls has returned: the checkpoint; the
discovery test; after a run the report; the output test, after which the loop begins again. The line
numbers and that the operations are called are the model's form (logs 7, 9). -/
def Obligations.CyclePass : Prop :=
  ∀ s : State, s.par.role = .controller →
    (s.runsFrom 0 = true →
      exec .cycle s = .next { s.started with
        ctl := { s.ctl with seq := .boundary }
        ops := ⟨encode .checkpoint, 0⟩ :: ⟨encode .cycle, 1⟩ :: s.ops }) ∧
    (s.runsFrom 1 = true → s.ctl.discPending = true →
      exec .cycle s = .next { s.started with
        ctl := { s.ctl with discPending := false }
        ops := ⟨encode .discover, 0⟩ :: ⟨encode .cycle, 4⟩ :: s.ops }) ∧
    (s.runsFrom 1 = true → s.ctl.discPending = false → s.ctl.outEn = true →
      exec .cycle s = .next { s.started with
        ops := ⟨encode .dataFrame, 0⟩ :: ⟨encode .cycle, 0⟩ :: s.ops }) ∧
    (s.runsFrom 1 = true → s.ctl.discPending = false → s.ctl.outEn = false →
      exec .cycle s = .next { s.started with
        ctl := { s.ctl with seq := .boundary }
        ops := ⟨encode .checkpoint, 0⟩ :: ⟨encode .cycle, 1⟩ :: s.ops }) ∧
    (s.runsFrom 4 = true →
      exec .cycle s = .next { s.started with
        ctl := { s.ctl with seq := if s.ctl.outEn then s.ctl.seq else .boundary }
        ops := if s.ctl.outEn then ⟨encode .dataFrame, 0⟩ :: ⟨encode .cycle, 0⟩ :: s.ops
          else ⟨encode .checkpoint, 0⟩ :: ⟨encode .cycle, 1⟩ :: s.ops
        out := { s.out with resp :=
          s.out.resp ++ [.disc ((List.range s.ctl.dlCount).map s.listRead) s.ctl.dlOverflow] } })

/-! ### Discovery -/

/-- R191, R190: `POLL_RANGE mn, mx` from its start and from where each operation it calls has returned: the
preamble; the flags, each computed when its position is sent; the release; one sample; and the test of the
character sampled. The line numbers, that the operations are called, and `answer` are the model's form
(logs 7, 9, 11). -/
def Obligations.PollRangePass : Prop :=
  ∀ (s : State) (mn mx : Nat), s.par.role = .controller →
    (s.runsFrom 0 = true →
      exec (.pollRange mn mx) s = .next { s.started with
        ctl := { s.ctl with seq := .poll mn mx .brk }
        ops := ⟨encode (.sendBreak 0xF0), 0⟩ :: ⟨encode (.pollRange mn mx), 1⟩ :: s.ops }) ∧
    (∀ j, (j = 1 ∧ s.runsFrom 1 = true) ∨
        (2 ≤ j ∧ j ≤ 512 ∧ s.runsFrom 3 = true ∧ s.ctl.seq = .poll mn mx (.bitmap (j - 1))) →
      exec (.pollRange mn mx) s = .next { s.started with
        ctl := { s.ctl with seq := .poll mn mx (.bitmap j) }
        ops := ⟨encode (.putSlot
          (if mn ≤ j ∧ j ≤ mx ∧ (∀ i, i < s.ctl.dlCount → s.listRead i ≠ BitVec.ofNat 10 j)
            then 0x01 else 0x00)), 0⟩ :: ⟨encode (.pollRange mn mx), 3⟩ :: s.ops }) ∧
    (s.runsFrom 3 = true → s.ctl.seq = .poll mn mx (.bitmap 512) →
      exec (.pollRange mn mx) s = .next { s.started with
        ctl := { s.ctl with seq := .poll mn mx .release }
        ops := ⟨encode .releaseDe, 0⟩ :: ⟨encode (.pollRange mn mx), 5⟩ :: s.ops }) ∧
    (∀ c, s.runsFrom 5 = true → s.env.rx.next.1 = some c →
      exec (.pollRange mn mx) s = .next { s.started with
        ctl := { s.ctl with seq := .poll mn mx (.window 1) }
        ops := ⟨encode c.instr, 0⟩ :: ⟨encode (.pollRange mn mx), 7⟩ :: s.ops
        env := { s.started.env with rx := s.env.rx.next.2 } }) ∧
    (s.runsOnly 5 = true →
      exec (.pollRange mn mx) s = .next { s.started with
        ctl := { s.ctl with seq := .poll mn mx (.window 1) }
        ops := ⟨encode (.pollRange mn mx), 6⟩ :: s.ops }) ∧
    (s.runsOnly 6 = true → s.env.rx.next.1 = none →
      exec (.pollRange mn mx) s = .next { s.started with
        ops := ⟨encode (.pollRange mn mx), 8⟩ :: s.ops
        env := { s.started.env with rx := s.env.rx.next.2 } }) ∧
    (s.runsFrom 7 = true → s.ctl.answer = true → exec (.pollRange mn mx) s = .next s.started) ∧
    (s.runsOnly 7 = true → s.ctl.answer = false →
      exec (.pollRange mn mx) s = .next { s.started with
        ops := ⟨encode (.pollRange mn mx), 8⟩ :: s.ops }) ∧
    (∀ k, s.runsOnly 9 = true → s.ctl.seq = .poll mn mx (.window k) → k < 60 →
      exec (.pollRange mn mx) s = .next { s.started with
        ctl := { s.ctl with seq := .poll mn mx (.window (k + 1)) }
        ops := ⟨encode (.pollRange mn mx), 6⟩ :: s.ops }) ∧
    (∀ k, s.runsFrom 8 = true → s.ctl.seq = .poll mn mx (.window k) → 60 ≤ k →
      exec (.pollRange mn mx) s = .next { s.started with ctl := { s.ctl with answer := false } })

/-- R192: how a controller classifies a character sampled: whether it is a Break, which answers the poll; a
stray or data character is discarded. The answer is held in the model's own field (log 11), and outside a
window it is used by nothing (log 18). -/
def Obligations.PollWindowClassifies : Prop :=
  ∀ s : State, s.par.role = .controller → s.runsFrom 0 = true →
    exec .rxBreak s = .next { s.started with ctl := { s.ctl with answer := true } } ∧
    (∀ b : Byte, b ≠ 0 →
      exec (.rxStrayFe b) s = .next { s.started with ctl := { s.ctl with answer := false } }) ∧
    (∀ b : Byte,
      exec (.rxData b) s = .next { s.started with ctl := { s.ctl with answer := false } })

/-- R96, R191: a poll frame on the wire, from its start to the release of the bus: the preamble, exactly
512 flags, and the release; no character is taken. The line that is next then is the model's (log 7). -/
def Obligations.PollFrameOnTheWire : Prop :=
  ∀ (s : State) (mn mx : Nat) (later : List Call), s.par.role = .controller → s.undisturbed = true →
    s.uartReady = true → WellFormed (.pollRange mn mx) = true →
    s.ops = ⟨encode (.pollRange mn mx), 0⟩ :: later →
    ∃ (n : Nat) (t : State), Host.Core.run Sys2Proof.core n s = .next t ∧
      t.out.wire = s.out.wire ++ (if s.de then [] else [.de true]) ++ [.brk, .byte 0xF0] ++
        (List.range 512).map (fun k => .byte (s.pollFlag mn mx (k + 1))) ++ [.de false] ∧
      t.ctl = { s.ctl with seq := .poll mn mx .release } ∧
      t.ops = ⟨encode (.pollRange mn mx), 5⟩ :: later ∧ t.de = false ∧ t.baud = .nominal ∧
      t.env.rx = s.env.rx

/-- R191, R192: from the release on, the poll returns true if one of the 60 samples is a Break, else false
after all of them; it puts nothing out. The value returned is held in `answer` (log 11). -/
def Obligations.PollWindowReturnsTheAnswer : Prop :=
  ∀ (s : State) (mn mx : Nat) (later : List Call), s.par.role = .controller → s.undisturbed = true →
    WellFormed (.pollRange mn mx) = true → s.ops = ⟨encode (.pollRange mn mx), 5⟩ :: later →
    ∃ (n : Nat) (t : State), Host.Core.run Sys2Proof.core n s = .next t ∧
      t.ctl = { s.ctl with
        seq := t.ctl.seq, answer := (s.env.rx.take 60).any fun c => c = some ⟨0, true⟩ } ∧
      t.ctl.seq.range = (mn, mx) ∧ t.ops = later ∧ t.out = s.out

/-- R194, R196, R197, R199: `DISCOVER` from its start and from where each poll has returned its answer, but
for the resolution of a singleton. The line numbers, that polls are called, `answer`, and that the run
ends at `Boundary` are the model's form (logs 7, 9, 10, 11). -/
def Obligations.DiscoverPass : Prop :=
  ∀ s : State, s.par.role = .controller →
    (s.runsFrom 0 = true →
      exec .discover s = .next { s.started with
        ctl := { s.ctl with dlCount := 0, dlOverflow := false, seq := .disc .outer 1 512 }
        ops := ⟨encode (.pollRange 1 512), 0⟩ :: ⟨encode .discover, 3⟩ :: s.ops }) ∧
    (s.runsFrom 3 = true → s.ctl.answer = true →
      exec .discover s = .next { s.started with
        ctl := { s.ctl with seq := .disc .inner 1 512 }
        ops := ⟨encode (.pollRange 1 512), 0⟩ :: ⟨encode .discover, 7⟩ :: s.ops }) ∧
    (s.runsFrom 3 = true → s.ctl.answer = false →
      exec .discover s = .next { s.started with ctl := { s.ctl with seq := .boundary } }) ∧
    (∀ mn mx, s.runsFrom 7 = true → s.ctl.seq.range = (mn, mx) → s.ctl.answer = true → mn < mx →
      mn ≤ 512 →
      exec .discover s = .next { s.started with
        ctl := { s.ctl with seq := .disc .inner mn ((mn + mx - 1) / 2) }
        ops := ⟨encode (.pollRange mn ((mn + mx - 1) / 2)), 0⟩ :: ⟨encode .discover, 7⟩ :: s.ops }) ∧
    (∀ mn mx, s.runsFrom 7 = true → s.ctl.seq.range = (mn, mx) → s.ctl.answer = false → mx < 512 →
      exec .discover s = .next { s.started with
        ctl := { s.ctl with seq := .disc .inner (mx + 1) (2 * mx + 1 - mn) }
        ops := ⟨encode (.pollRange (mx + 1) (2 * mx + 1 - mn)), 0⟩ ::
          ⟨encode .discover, 7⟩ :: s.ops }) ∧
    (∀ mn mx, s.runsFrom 7 = true → s.ctl.seq.range = (mn, mx) → s.ctl.answer = false → 512 ≤ mx →
      exec .discover s = .next { s.started with
        ctl := { s.ctl with seq := .disc .outer 1 512 }
        ops := ⟨encode (.pollRange 1 512), 0⟩ :: ⟨encode .discover, 3⟩ :: s.ops })

/-- R195: the resolution of a singleton, when the poll of (`mn`, `mn`) has returned true: append it and
restart the search, or, with 10 addresses in the list, end the run and report the overflow. The line
numbers, `answer`, and that the run ends at `Boundary` are the model's form (logs 7, 10, 11). -/
def Obligations.SingletonIsAppendedOrOverflows : Prop :=
  ∀ (s : State) (mn : Nat), s.par.role = .controller → s.runsFrom 7 = true →
    s.ctl.seq.range = (mn, mn) → s.ctl.answer = true →
    (s.ctl.dlCount = 10 →
      exec .discover s = .next { s.started with
        ctl := { s.ctl with dlOverflow := true, seq := .boundary } }) ∧
    (s.ctl.dlCount < 10 →
      ∃ t : State, exec .discover s = .next t ∧
        (∀ i, t.listRead i = if i = s.ctl.dlCount then BitVec.ofNat 10 mn else s.listRead i) ∧
        t = { s.started with
          ctl := { s.ctl with
            dl := t.ctl.dl, dlCount := s.ctl.dlCount + 1, seq := .disc .outer 1 512 }
          ops := ⟨encode (.pollRange 1 512), 0⟩ :: ⟨encode .discover, 3⟩ :: s.ops })

/-- R30: the addresses discovered stay distinct, but for the one case in which R195 and R354 append one
again: a Break that answers a singleton whose flag was 0 because it is in the list already (log 28). So an
answer to an address that was queried keeps them distinct. -/
def Obligations.DiscoveredAddressesStayDistinct : Prop :=
  ∀ s t : State, Safe s = true → s.discovered.Nodup → step s = .next t →
    t.discovered.Nodup ∨
    ∃ mn : Nat, 1 ≤ mn ∧ mn ≤ 512 ∧ s.pollFlag mn mn mn = 0 ∧
      t.discovered = s.discovered ++ [BitVec.ofNat 10 mn]

/-- R196, R197, R199: for every range the census forms and polls, the lower half is exactly the first
half of it, the upper half has the same width and lies above it, and both are such ranges again; so at
each step the width halves or `mn` grows. -/
def Obligations.CensusRangesHalveOrAdvance : Prop :=
  ∀ mn mx : Nat, censusRange mn mx = true → mn ≤ 512 →
    mn ≤ mx ∧ mx ≤ 512 ∧
    (mn < mx → 2 * (lowerHalf mn mx + 1 - mn) = mx + 1 - mn ∧ censusRange mn (lowerHalf mn mx) = true) ∧
    ((upperHalf mn mx).2 + 1 - (upperHalf mn mx).1 = mx + 1 - mn ∧ mn < (upperHalf mn mx).1 ∧
      (upperHalf mn mx).2 ≤ 1024 ∧ censusRange (upperHalf mn mx).1 (upperHalf mn mx).2 = true)

/-- R194: with no Break in the first window, a run is one poll of (1, 512) and finds nothing. The position
at its end is the model's (log 10). -/
def Obligations.SilentBusEndsTheRunAfterOnePoll : Prop :=
  ∀ (s : State) (later : List Call), s.par.role = .controller → s.undisturbed = true →
    s.uartReady = true → s.ops = ⟨encode .discover, 0⟩ :: later →
    ((s.env.rx.take 60).any fun c => c = some ⟨0, true⟩) = false →
    ∃ (n : Nat) (t : State), Host.Core.run Sys2Proof.core n s = .next t ∧
      t.ctl = { s.ctl with dlCount := 0, dlOverflow := false, seq := .boundary, answer := false } ∧
      t.ops = later ∧ t.out.resp = s.out.resp ∧
      t.out.wire = s.out.wire ++ (if s.de then [] else [.de true]) ++ [.brk, .byte 0xF0] ++
        List.replicate 512 (.byte 0x01) ++ [.de false]

/-- R200 (vector D12): on a bus where noise answers every `while` poll and nothing answers the inner one,
the run never ends: however many steps are taken, it comes back to the `while` poll, with nothing
discovered and nothing reported. -/
def Obligations.NoiseCanRepeatForEver : Prop :=
  ∀ (s : State) (later : List Call), s.par.role = .controller → s.undisturbed = true →
    s.uartReady = true → s.ops = ⟨encode .discover, 2⟩ :: later →
    s.env.rx = ⟨[], some ⟨0, true⟩, List.replicate 60 none⟩ →
    ∀ n : Nat, ∃ (m : Nat) (t : State), n ≤ m ∧ Host.Core.run Sys2Proof.core m s = .next t ∧
      t.ops = ⟨encode (.pollRange 1 512), 0⟩ :: ⟨encode .discover, 3⟩ :: later ∧
      t.ctl.dl = s.ctl.dl ∧ t.ctl.dlCount = s.ctl.dlCount ∧ t.out.resp = s.out.resp ∧
      t.env.rx = s.env.rx

/-! ### The frame-sync machine -/

/-- R46: pins all high give address 1, all low 512, and each value between. -/
def Obligations.DeviceAddressFromPins : Prop :=
  ∀ p : Pins, (deviceAddress p).toNat = 512 - p.toNat

/-- R230: `FS_STEP` holds while nothing is received, and otherwise consumes the one character: the
operation the character is runs next, and then the loop goes on (log 9). -/
def Obligations.FsStepConsumesOneCharacter : Prop :=
  ∀ s : State, s.par.role = .device → s.runsFrom 0 = true →
    (s.env.rx.next.1 = none →
      exec .fsStep s = .next { s.started with
        ops := ⟨encode .fsStep, 0⟩ :: s.ops, env := { s.started.env with rx := s.env.rx.next.2 } }) ∧
    (∀ c, s.env.rx.next.1 = some c →
      exec .fsStep s = .next { s.started with
        ops := ⟨encode c.instr, 0⟩ :: ⟨encode .fsStep, 0⟩ :: s.ops
        env := { s.started.env with rx := s.env.rx.next.2 } })

/-- R231, R232, R239: in `Idle` and `Synced` a Break resynchronises and latches the address; a stray
character is dropped; a data character is dropped while `Idle`. Each iteration computes its address
afresh, which the model holds in a field of its own (log 11). -/
def Obligations.BreakResynchronisesOthersAreDropped : Prop :=
  ∀ (s : State) (addr : Addr) (env : Env), s.par.role = .device → s.runsFrom 0 = true →
    addr = deviceAddress s.env.pins.next.1 →
    env = { s.started.env with pins := s.env.pins.next.2 } →
    (s.dev.fs = .idle ∨ s.dev.fs = .synced →
      exec .rxBreak s = .next { s.started with
        dev := { s.dev with fs := .awaitSC, pollAddr := addr, addr := addr }, env := env }) ∧
    (s.dev.fs = .idle ∨ s.dev.fs = .synced → ∀ b : Byte, b ≠ 0 →
      exec (.rxStrayFe b) s = .next { s.started with dev := { s.dev with addr := addr }, env := env }) ∧
    (s.dev.fs = .idle → ∀ b : Byte,
      exec (.rxData b) s = .next { s.started with dev := { s.dev with addr := addr }, env := env })

/-- R236: a data character in the extraction window. -/
def Obligations.SyncedDataIsExtracted : Prop :=
  ∀ (s : State) (b : Byte), s.par.role = .device → s.runsFrom 0 = true → s.dev.fs = .synced →
    ∃ t : State, exec (.rxData b) s = .next t ∧
      t.dev.slot = (if s.dev.slot.toNat + 1 > 512 then 0 else s.dev.slot + 1) ∧
      t.dev.addr = deviceAddress s.env.pins.next.1 ∧
      (s.dev.slot = deviceAddress s.env.pins.next.1 →
        t.dev.devVal = b ∧ t.dev.duty = b ∧ t.out.duty = s.out.duty ++ [b] ∧
        (∀ c, t.counter c = if c = s.par.changeCtr.id ∧ b ≠ s.dev.devVal then s.par.tChange
          else s.counter c)) ∧
      (s.dev.slot ≠ deviceAddress s.env.pins.next.1 →
        t.dev.devVal = s.dev.devVal ∧ t.dev.duty = s.dev.duty ∧ t.out.duty = s.out.duty ∧
        t.tmo = s.tmo) ∧
      t = { s.started with
        tmo := t.tmo
        dev := { s.dev with
          slot := t.dev.slot, devVal := t.dev.devVal, duty := t.dev.duty, addr := t.dev.addr }
        env := { s.started.env with pins := s.env.pins.next.2 }
        out := { s.out with duty := t.out.duty } }

/-- R233, R234, R237, R238: in `AwaitSC` every character, framing error or not, is the start code its
value says, whose operation runs next (log 9). -/
def Obligations.AwaitSCTakesAnyCharacterAsStartCode : Prop :=
  ∀ (s : State) (c : RxChar), s.par.role = .device → s.runsFrom 0 = true → s.dev.fs = .awaitSC →
    exec c.instr s = .next { s.started with
      dev := { s.dev with addr := deviceAddress s.env.pins.next.1 }
      ops := ⟨encode (if c.b = 0x00 then .scData else if c.b = 0xF0 then .scPoll else .scOther c.b), 0⟩ ::
        s.ops
      env := { s.started.env with pins := s.env.pins.next.2 } }

/-- R233: `SC_DATA`, when no interrupt comes inside it. -/
def Obligations.DataStartCodeSynchronises : Prop :=
  ∀ s : State, s.par.role = .device → s.runsFrom 0 = true →
    exec .scData s = .next { s.started with
      tmo := { s.tmo with noData := s.par.tNoData }
      dev := { s.dev with
        fs := .synced, slot := 1
        actLed := if s.counter s.par.changeCtr.id = 0 then true else s.dev.actLed } }

/-- R313, R305: `SC_DATA` line by line. It can be stopped after each of its lines, so that a tick comes
between its arming and its test, or between its test and its write of the indicator, which is then forced
on all the same. The line numbers are the model's (log 7). -/
def Obligations.DataStartCodeStopsBetweenItsLines : Prop :=
  ∀ s : State, s.par.role = .device →
    (s.runsOnly 0 = true →
      exec .scData s = .next { s.started with
        dev := { s.dev with fs := .synced }, ops := ⟨encode .scData, 1⟩ :: s.ops }) ∧
    (s.runsOnly 1 = true →
      exec .scData s = .next { s.started with
        dev := { s.dev with slot := 1 }, ops := ⟨encode .scData, 2⟩ :: s.ops }) ∧
    (s.runsOnly 2 = true →
      exec .scData s = .next { s.started with
        tmo := { s.tmo with noData := s.par.tNoData }, ops := ⟨encode .scData, 3⟩ :: s.ops }) ∧
    (s.runsOnly 3 = true → s.counter s.par.changeCtr.id = 0 →
      exec .scData s = .next { s.started with ops := ⟨encode .scData, 4⟩ :: s.ops }) ∧
    (s.runsOnly 3 = true → s.counter s.par.changeCtr.id ≠ 0 → exec .scData s = .next s.started) ∧
    (s.runsFrom 4 = true →
      exec .scData s = .next { s.started with dev := { s.dev with actLed := true } })

/-- R234, R237: the poll start code begins the positional read, any other start code returns the device
to `Idle`. -/
def Obligations.OtherStartCodes : Prop :=
  ∀ s : State, s.par.role = .device → s.runsFrom 0 = true →
    exec .scPoll s = .next { s.started with
      dev := { s.dev with fs := .pollRead, pollIdx := 1, pollCap := 0 } } ∧
    (∀ b : Byte, b ≠ 0x00 → b ≠ 0xF0 →
      exec (.scOther b) s = .next { s.started with dev := { s.dev with fs := .idle } })

/-- R235, R238: one position of a poll frame, whatever the character, and the response after the 512th,
which runs next (log 9). -/
def Obligations.PollReadCountsPositions : Prop :=
  ∀ (s : State) (c : RxChar) (cap : Byte), s.par.role = .device → s.runsFrom 0 = true →
    s.dev.fs = .pollRead → cap = (if s.dev.pollIdx = s.dev.pollAddr then c.b else s.dev.pollCap) →
    (s.dev.pollIdx ≠ 512 →
      exec c.instr s = .next { s.started with
        dev := { s.dev with
          pollCap := cap, pollIdx := s.dev.pollIdx + 1, addr := deviceAddress s.env.pins.next.1 }
        env := { s.started.env with pins := s.env.pins.next.2 } }) ∧
    (s.dev.pollIdx = 512 →
      exec c.instr s = .next { s.started with
        dev := { s.dev with
          pollCap := cap, fs := .idle, addr := deviceAddress s.env.pins.next.1 }
        ops := if cap ≠ 0 then ⟨encode .bareBreak, 0⟩ :: s.ops else s.ops
        env := { s.started.env with pins := s.env.pins.next.2 } })

/-- R240: from `Idle` or `Synced`, a Break, the data start code and `n < 512` data characters leave the
device synchronised at slot `n + 1`, with the value at its address extracted. -/
def Obligations.DeviceHealsAtEachBreak : Prop :=
  ∀ (s : State) (p : Pins) (data : List Byte), s.par.role = .device → s.undisturbed = true →
    s.ops = [⟨encode .fsStep, 0⟩] → s.dev.fs = .idle ∨ s.dev.fs = .synced →
    (s.env.pins.all fun q => decide (q = p)) = true → data.length < 512 →
    s.env.rx.now = some ⟨0, true⟩ :: some ⟨0, false⟩ :: data.map (fun b => some ⟨b, false⟩) →
    ∃ (n : Nat) (t : State), Host.Core.run Sys2Proof.core n s = .next t ∧
      t.dev.fs = .synced ∧ t.dev.slot.toNat = data.length + 1 ∧
      ((deviceAddress p).toNat ≤ data.length →
        data[(deviceAddress p).toNat - 1]? = some t.dev.devVal ∧ t.dev.duty = t.dev.devVal) ∧
      t.ops = [⟨encode .fsStep, 0⟩] ∧ t.env.rx = { s.env.rx with now := [] } ∧
      t.out.wire = s.out.wire
end

