-- ==== Sys2Proof/Laws/Memory.lean ====
section
/-! SUPPORT. The laws of the three memories (spec 20_memory.md R60, R69): a read after a write, and that
every write keeps the canonical form. Later proofs cite these and never unfold the list operations. -/

namespace Sys2Proof.Machine

variable {w : Nat}

/-! ### Read after write -/

theorem Memory.lookup_remove (m : Memory w) (i j : Nat) :
    Memory.lookup (Memory.remove m i) j = if j = i then none else Memory.lookup m j := by
  induction m with
  | nil => simp [Memory.lookup, Memory.remove]
  | cons e rest ih =>
    obtain ⟨k, u⟩ := e
    unfold Memory.remove
    split
    · rw [ih]; grind [Memory.lookup]
    · grind [Memory.lookup]

theorem Memory.lookup_place (m : Memory w) (i j : Nat) (v : BitVec w) :
    Memory.lookup (Memory.place m i v) j = if j = i then some v else Memory.lookup m j := by
  induction m with
  | nil => grind [Memory.lookup, Memory.place]
  | cons e rest ih =>
    obtain ⟨k, u⟩ := e
    unfold Memory.place
    split
    · grind [Memory.lookup]
    · split
      · grind [Memory.lookup]
      · grind [Memory.lookup]

/-- A memory with no blank value holds what was written. -/
theorem Memory.lookup_write_none (m : Memory w) (i j : Nat) (v : BitVec w) :
    Memory.lookup (Memory.write none m i v) j = if j = i then some v else Memory.lookup m j := by
  simp [Memory.write, Memory.lookup_place]

/-- A memory whose unlisted elements read as `b` reads as what was written. -/
theorem Memory.getD_lookup_write (b : BitVec w) (m : Memory w) (i j : Nat) (v : BitVec w) :
    (Memory.lookup (Memory.write (some b) m i v) j).getD b =
      if j = i then v else (Memory.lookup m j).getD b := by
  unfold Memory.write
  split
  · rw [Memory.lookup_remove]; grind
  · rw [Memory.lookup_place]; grind

@[simp] theorem chanRead_chanWrite (s : State) (i j : Nat) (v : Byte) :
    (s.chanWrite i v).chanRead j = if j = i then v else s.chanRead j :=
  Memory.getD_lookup_write 0 s.ctl.chan i j v

@[simp] theorem ringRead_ringWrite (s : State) (i j v : Byte) :
    (s.ringWrite i v).ringRead j = if j = i then v else s.ringRead j := by
  simp only [State.ringRead, State.ringWrite, ringBlank, Memory.lookup_write_none, BitVec.toNat_inj]
  split <;> rfl

@[simp] theorem listRead_listWrite (s : State) (i j : Nat) (v : Addr) :
    (s.listWrite i v).listRead j = if j = i then v else s.listRead j := by
  simp only [State.listRead, State.listWrite, listBlank, Memory.lookup_write_none]
  split <;> rfl

/-! ### The canonical form -/

theorem Memory.wfFrom_lower {blank : Option (BitVec w)} {size a : Nat} {lo : Option Nat} {m : Memory w}
    (h : Memory.wfFrom blank size (some a) m = true) (hlo : ∀ l, lo = some l → l ≤ a) :
    Memory.wfFrom blank size lo m = true := by
  cases m with
  | nil => rfl
  | cons e rest =>
    obtain ⟨k, u⟩ := e
    cases lo with
    | none => simp_all [Memory.wfFrom]
    | some l =>
      have := hlo l rfl
      simp only [Memory.wfFrom, Bool.and_eq_true, decide_eq_true_eq] at h ⊢
      exact ⟨⟨⟨by omega, h.1.1.2⟩, h.1.2⟩, h.2⟩

theorem Memory.wfFrom_remove {blank : Option (BitVec w)} {size : Nat} {m : Memory w} (i : Nat) :
    ∀ {lo : Option Nat}, Memory.wfFrom blank size lo m = true →
      Memory.wfFrom blank size lo (Memory.remove m i) = true := by
  induction m with
  | nil => intro lo h; exact h
  | cons e rest ih =>
    obtain ⟨k, u⟩ := e
    intro lo h
    simp only [Memory.wfFrom, Bool.and_eq_true] at h
    unfold Memory.remove
    split
    · refine Memory.wfFrom_lower (ih h.2) fun l hl => ?_
      subst hl
      have := h.1.1.1
      simp only [decide_eq_true_eq] at this
      omega
    · simp only [Memory.wfFrom, Bool.and_eq_true]
      exact ⟨h.1, ih h.2⟩

theorem Memory.wfFrom_place {blank : Option (BitVec w)} {size i : Nat} {v : BitVec w} {m : Memory w}
    (hi : i < size) (hv : blank ≠ some v) :
    ∀ {lo : Option Nat}, (∀ l, lo = some l → l < i) → Memory.wfFrom blank size lo m = true →
      Memory.wfFrom blank size lo (Memory.place m i v) = true := by
  induction m with
  | nil =>
    intro lo hlo _
    cases lo <;> simp_all [Memory.place, Memory.wfFrom]
  | cons e rest ih =>
    obtain ⟨k, u⟩ := e
    intro lo hlo h
    simp only [Memory.wfFrom, Bool.and_eq_true, decide_eq_true_eq] at h
    obtain ⟨⟨⟨h1, h2⟩, h3⟩, h4⟩ := h
    unfold Memory.place
    split
    · cases lo <;> simp_all [Memory.wfFrom]
    · split
      · subst_vars
        cases lo <;> simp_all [Memory.wfFrom]
      · simp only [Memory.wfFrom, Bool.and_eq_true, decide_eq_true_eq]
        refine ⟨⟨⟨h1, h2⟩, h3⟩, ih ?_ h4⟩
        intro l hl
        cases hl
        omega

/-- Every write inside the memory keeps the canonical form. -/
theorem Memory.wf_write {blank : Option (BitVec w)} {size i : Nat} {v : BitVec w} {m : Memory w}
    (hi : i < size) (h : Memory.wf blank size m = true) :
    Memory.wf blank size (Memory.write blank m i v) = true := by
  unfold Memory.write
  split
  · exact Memory.wfFrom_remove i h
  · exact Memory.wfFrom_place hi ‹_› (by simp) h

theorem chanWrite_wf {s : State} {i : Nat} {v : Byte} (hi : i < Config.nSlot)
    (h : Memory.wf chanBlank Config.nSlot s.ctl.chan = true) :
    Memory.wf chanBlank Config.nSlot (s.chanWrite i v).ctl.chan = true :=
  Memory.wf_write hi h

theorem ringWrite_wf {s : State} {i v : Byte}
    (h : Memory.wf ringBlank Config.ringSize s.ctl.rb = true) :
    Memory.wf ringBlank Config.ringSize (s.ringWrite i v).ctl.rb = true :=
  Memory.wf_write i.isLt h

theorem listWrite_wf {s : State} {i : Nat} {v : Addr} (hi : i < Config.listCap)
    (h : Memory.wf listBlank Config.listCap s.ctl.dl = true) :
    Memory.wf listBlank Config.listCap (s.listWrite i v).ctl.dl = true :=
  Memory.wf_write hi h

/-- The three memories are in canonical form at reset. -/
theorem reset_memories_wf (p : Params) (env : Env) (out : Outputs) (n : Nat) :
    memoriesOk (State.resetWith p env out n) = true := rfl

/-- Two memories in canonical form that list the same values are the same list. -/
theorem Memory.lookup_none_of_wfFrom {blank : Option (BitVec w)} {size a : Nat} {m : Memory w}
    (h : Memory.wfFrom blank size (some a) m = true) {j : Nat} (hj : j ≤ a) :
    Memory.lookup m j = none := by
  induction m generalizing a with
  | nil => rfl
  | cons e rest ih =>
    obtain ⟨k, u⟩ := e
    simp only [Memory.wfFrom, Bool.and_eq_true, decide_eq_true_eq] at h
    unfold Memory.lookup
    rw [if_neg (by omega), ih h.2 (by omega)]

theorem Memory.ext_of_wfFrom {blank : Option (BitVec w)} {size : Nat} {m : Memory w} :
    ∀ {m' : Memory w} {lo lo' : Option Nat}, Memory.wfFrom blank size lo m = true →
      Memory.wfFrom blank size lo' m' = true →
      (∀ j, Memory.lookup m j = Memory.lookup m' j) → m = m' := by
  induction m with
  | nil =>
    intro m' lo lo' _ _ he
    cases m' with
    | nil => rfl
    | cons e rest =>
      have := he e.1
      simp [Memory.lookup] at this
  | cons e rest ih =>
    obtain ⟨k, u⟩ := e
    intro m' lo lo' h h' he
    cases m' with
    | nil =>
      have := he k
      simp [Memory.lookup] at this
    | cons e' rest' =>
      obtain ⟨k', u'⟩ := e'
      simp only [Memory.wfFrom, Bool.and_eq_true] at h h'
      have hk : k = k' := by
        rcases Nat.lt_trichotomy k k' with hlt | heq | hgt
        · have := he k
          simp only [Memory.lookup, if_neg (show ¬k' = k by omega),
            Memory.lookup_none_of_wfFrom h'.2 (show k ≤ k' by omega), if_true] at this
          cases this
        · exact heq
        · have := he k'
          simp only [Memory.lookup, if_neg (show ¬k = k' by omega),
            Memory.lookup_none_of_wfFrom h.2 (show k' ≤ k by omega), if_true] at this
          cases this
      subst hk
      have hu : u = u' := by
        have := he k
        simpa [Memory.lookup] using this
      subst hu
      rw [ih h.2 h'.2]
      intro j
      by_cases hj : j ≤ k
      · rw [Memory.lookup_none_of_wfFrom h.2 hj, Memory.lookup_none_of_wfFrom h'.2 hj]
      · have := he j
        simpa [Memory.lookup, show ¬k = j by omega] using this

/-- Equal memories are equal data: two canonical memories that read alike are one list. -/
theorem Memory.ext_of_wf {blank : Option (BitVec w)} {size : Nat} {m m' : Memory w}
    (h : Memory.wf blank size m = true) (h' : Memory.wf blank size m' = true)
    (he : ∀ j, Memory.lookup m j = Memory.lookup m' j) : m = m' :=
  Memory.ext_of_wfFrom h h' he

end Sys2Proof.Machine
end

