-- ==== Sys2Proof/Laws/State.lean ====
section
/-! SUPPORT. Each named update of `State`, field by field: one lemma for each field and update, true by
`rfl`, so that no later proof unfolds a record update. -/

namespace Sys2Proof.Machine

/-! ### `emit` -/

section
variable (s : State) (e : WireEvent)

@[simp] theorem emit_par : (s.emit e).par = s.par := rfl
@[simp] theorem emit_de : (s.emit e).de = s.de := rfl
@[simp] theorem emit_baud : (s.emit e).baud = s.baud := rfl
@[simp] theorem emit_tmo : (s.emit e).tmo = s.tmo := rfl
@[simp] theorem emit_pendTick : (s.emit e).pendTick = s.pendTick := rfl
@[simp] theorem emit_ctl : (s.emit e).ctl = s.ctl := rfl
@[simp] theorem emit_dev : (s.emit e).dev = s.dev := rfl
@[simp] theorem emit_ops : (s.emit e).ops = s.ops := rfl
@[simp] theorem emit_line : (s.emit e).line = s.line := rfl
@[simp] theorem emit_env : (s.emit e).env = s.env := rfl
@[simp] theorem emit_out_wire : (s.emit e).out.wire = s.out.wire ++ [e] := rfl
@[simp] theorem emit_out_resp : (s.emit e).out.resp = s.out.resp := rfl
@[simp] theorem emit_out_console : (s.emit e).out.console = s.out.console := rfl
@[simp] theorem emit_out_duty : (s.emit e).out.duty = s.out.duty := rfl
@[simp] theorem emit_out_fired : (s.emit e).out.fired = s.out.fired := rfl
@[simp] theorem emit_resets : (s.emit e).resets = s.resets := rfl
@[simp] theorem emit_chanRead (j : Nat) : (s.emit e).chanRead j = s.chanRead j := rfl
@[simp] theorem emit_ringRead (j : Byte) : (s.emit e).ringRead j = s.ringRead j := rfl
@[simp] theorem emit_listRead (j : Nat) : (s.emit e).listRead j = s.listRead j := rfl

end

/-! ### `respond` -/

section
variable (s : State) (r : Response)

@[simp] theorem respond_par : (s.respond r).par = s.par := rfl
@[simp] theorem respond_de : (s.respond r).de = s.de := rfl
@[simp] theorem respond_baud : (s.respond r).baud = s.baud := rfl
@[simp] theorem respond_tmo : (s.respond r).tmo = s.tmo := rfl
@[simp] theorem respond_pendTick : (s.respond r).pendTick = s.pendTick := rfl
@[simp] theorem respond_ctl : (s.respond r).ctl = s.ctl := rfl
@[simp] theorem respond_dev : (s.respond r).dev = s.dev := rfl
@[simp] theorem respond_ops : (s.respond r).ops = s.ops := rfl
@[simp] theorem respond_line : (s.respond r).line = s.line := rfl
@[simp] theorem respond_env : (s.respond r).env = s.env := rfl
@[simp] theorem respond_out_wire : (s.respond r).out.wire = s.out.wire := rfl
@[simp] theorem respond_out_resp : (s.respond r).out.resp = s.out.resp ++ [r] := rfl
@[simp] theorem respond_out_console : (s.respond r).out.console = s.out.console := rfl
@[simp] theorem respond_out_duty : (s.respond r).out.duty = s.out.duty := rfl
@[simp] theorem respond_out_fired : (s.respond r).out.fired = s.out.fired := rfl
@[simp] theorem respond_resets : (s.respond r).resets = s.resets := rfl
@[simp] theorem respond_chanRead (j : Nat) : (s.respond r).chanRead j = s.chanRead j := rfl
@[simp] theorem respond_ringRead (j : Byte) : (s.respond r).ringRead j = s.ringRead j := rfl
@[simp] theorem respond_listRead (j : Nat) : (s.respond r).listRead j = s.listRead j := rfl

end

/-! ### `consoleOut` -/

section
variable (s : State) (b : Byte)

@[simp] theorem consoleOut_par : (s.consoleOut b).par = s.par := rfl
@[simp] theorem consoleOut_de : (s.consoleOut b).de = s.de := rfl
@[simp] theorem consoleOut_baud : (s.consoleOut b).baud = s.baud := rfl
@[simp] theorem consoleOut_tmo : (s.consoleOut b).tmo = s.tmo := rfl
@[simp] theorem consoleOut_pendTick : (s.consoleOut b).pendTick = s.pendTick := rfl
@[simp] theorem consoleOut_ctl : (s.consoleOut b).ctl = s.ctl := rfl
@[simp] theorem consoleOut_dev : (s.consoleOut b).dev = s.dev := rfl
@[simp] theorem consoleOut_ops : (s.consoleOut b).ops = s.ops := rfl
@[simp] theorem consoleOut_line : (s.consoleOut b).line = s.line := rfl
@[simp] theorem consoleOut_env : (s.consoleOut b).env = s.env := rfl
@[simp] theorem consoleOut_out_wire : (s.consoleOut b).out.wire = s.out.wire := rfl
@[simp] theorem consoleOut_out_resp : (s.consoleOut b).out.resp = s.out.resp := rfl
@[simp] theorem consoleOut_out_console : (s.consoleOut b).out.console = s.out.console ++ [b] := rfl
@[simp] theorem consoleOut_out_duty : (s.consoleOut b).out.duty = s.out.duty := rfl
@[simp] theorem consoleOut_out_fired : (s.consoleOut b).out.fired = s.out.fired := rfl
@[simp] theorem consoleOut_resets : (s.consoleOut b).resets = s.resets := rfl
@[simp] theorem consoleOut_chanRead (j : Nat) : (s.consoleOut b).chanRead j = s.chanRead j := rfl
@[simp] theorem consoleOut_ringRead (j : Byte) : (s.consoleOut b).ringRead j = s.ringRead j := rfl
@[simp] theorem consoleOut_listRead (j : Nat) : (s.consoleOut b).listRead j = s.listRead j := rfl

end

/-! ### `dutyOut` -/

section
variable (s : State) (b : Byte)

@[simp] theorem dutyOut_par : (s.dutyOut b).par = s.par := rfl
@[simp] theorem dutyOut_de : (s.dutyOut b).de = s.de := rfl
@[simp] theorem dutyOut_baud : (s.dutyOut b).baud = s.baud := rfl
@[simp] theorem dutyOut_tmo : (s.dutyOut b).tmo = s.tmo := rfl
@[simp] theorem dutyOut_pendTick : (s.dutyOut b).pendTick = s.pendTick := rfl
@[simp] theorem dutyOut_ctl : (s.dutyOut b).ctl = s.ctl := rfl
@[simp] theorem dutyOut_dev : (s.dutyOut b).dev = s.dev := rfl
@[simp] theorem dutyOut_ops : (s.dutyOut b).ops = s.ops := rfl
@[simp] theorem dutyOut_line : (s.dutyOut b).line = s.line := rfl
@[simp] theorem dutyOut_env : (s.dutyOut b).env = s.env := rfl
@[simp] theorem dutyOut_out_wire : (s.dutyOut b).out.wire = s.out.wire := rfl
@[simp] theorem dutyOut_out_resp : (s.dutyOut b).out.resp = s.out.resp := rfl
@[simp] theorem dutyOut_out_console : (s.dutyOut b).out.console = s.out.console := rfl
@[simp] theorem dutyOut_out_duty : (s.dutyOut b).out.duty = s.out.duty ++ [b] := rfl
@[simp] theorem dutyOut_out_fired : (s.dutyOut b).out.fired = s.out.fired := rfl
@[simp] theorem dutyOut_resets : (s.dutyOut b).resets = s.resets := rfl
@[simp] theorem dutyOut_chanRead (j : Nat) : (s.dutyOut b).chanRead j = s.chanRead j := rfl
@[simp] theorem dutyOut_ringRead (j : Byte) : (s.dutyOut b).ringRead j = s.ringRead j := rfl
@[simp] theorem dutyOut_listRead (j : Nat) : (s.dutyOut b).listRead j = s.listRead j := rfl

end

/-! ### `setBaud` -/

section
variable (s : State) (m : Baud)

@[simp] theorem setBaud_par : (s.setBaud m).par = s.par := rfl
@[simp] theorem setBaud_de : (s.setBaud m).de = s.de := rfl
@[simp] theorem setBaud_baud : (s.setBaud m).baud = m := rfl
@[simp] theorem setBaud_tmo : (s.setBaud m).tmo = s.tmo := rfl
@[simp] theorem setBaud_pendTick : (s.setBaud m).pendTick = s.pendTick := rfl
@[simp] theorem setBaud_ctl : (s.setBaud m).ctl = s.ctl := rfl
@[simp] theorem setBaud_dev : (s.setBaud m).dev = s.dev := rfl
@[simp] theorem setBaud_ops : (s.setBaud m).ops = s.ops := rfl
@[simp] theorem setBaud_line : (s.setBaud m).line = s.line := rfl
@[simp] theorem setBaud_env : (s.setBaud m).env = s.env := rfl
@[simp] theorem setBaud_out : (s.setBaud m).out = s.out := rfl
@[simp] theorem setBaud_resets : (s.setBaud m).resets = s.resets := rfl
@[simp] theorem setBaud_chanRead (j : Nat) : (s.setBaud m).chanRead j = s.chanRead j := rfl
@[simp] theorem setBaud_ringRead (j : Byte) : (s.setBaud m).ringRead j = s.ringRead j := rfl
@[simp] theorem setBaud_listRead (j : Nat) : (s.setBaud m).listRead j = s.listRead j := rfl

end

/-! ### `uartPut` -/

section
variable (s : State) (b : Byte)

@[simp] theorem uartPut_par : (s.uartPut b).par = s.par := rfl
@[simp] theorem uartPut_de : (s.uartPut b).de = s.de := rfl
@[simp] theorem uartPut_baud : (s.uartPut b).baud = s.baud := rfl
@[simp] theorem uartPut_tmo : (s.uartPut b).tmo = s.tmo := rfl
@[simp] theorem uartPut_pendTick : (s.uartPut b).pendTick = s.pendTick := rfl
@[simp] theorem uartPut_ctl : (s.uartPut b).ctl = s.ctl := rfl
@[simp] theorem uartPut_dev : (s.uartPut b).dev = s.dev := rfl
@[simp] theorem uartPut_ops : (s.uartPut b).ops = s.ops := rfl
@[simp] theorem uartPut_line : (s.uartPut b).line = s.line := rfl
@[simp] theorem uartPut_env : (s.uartPut b).env = s.env := rfl
@[simp] theorem uartPut_out_wire : (s.uartPut b).out.wire = s.out.wire ++ [.char b s.baud] := rfl
@[simp] theorem uartPut_out_resp : (s.uartPut b).out.resp = s.out.resp := rfl
@[simp] theorem uartPut_out_console : (s.uartPut b).out.console = s.out.console := rfl
@[simp] theorem uartPut_out_duty : (s.uartPut b).out.duty = s.out.duty := rfl
@[simp] theorem uartPut_out_fired : (s.uartPut b).out.fired = s.out.fired := rfl
@[simp] theorem uartPut_resets : (s.uartPut b).resets = s.resets := rfl
@[simp] theorem uartPut_chanRead (j : Nat) : (s.uartPut b).chanRead j = s.chanRead j := rfl
@[simp] theorem uartPut_ringRead (j : Byte) : (s.uartPut b).ringRead j = s.ringRead j := rfl
@[simp] theorem uartPut_listRead (j : Nat) : (s.uartPut b).listRead j = s.listRead j := rfl

end

/-! ### `callAt` -/

section
variable (s : State) (i : Instr) (k : Nat)

@[simp] theorem callAt_par : (s.callAt i k).par = s.par := rfl
@[simp] theorem callAt_de : (s.callAt i k).de = s.de := rfl
@[simp] theorem callAt_baud : (s.callAt i k).baud = s.baud := rfl
@[simp] theorem callAt_tmo : (s.callAt i k).tmo = s.tmo := rfl
@[simp] theorem callAt_pendTick : (s.callAt i k).pendTick = s.pendTick := rfl
@[simp] theorem callAt_ctl : (s.callAt i k).ctl = s.ctl := rfl
@[simp] theorem callAt_dev : (s.callAt i k).dev = s.dev := rfl
@[simp] theorem callAt_ops : (s.callAt i k).ops = ⟨encode i, k⟩ :: s.ops := rfl
@[simp] theorem callAt_line : (s.callAt i k).line = s.line := rfl
@[simp] theorem callAt_env : (s.callAt i k).env = s.env := rfl
@[simp] theorem callAt_out : (s.callAt i k).out = s.out := rfl
@[simp] theorem callAt_resets : (s.callAt i k).resets = s.resets := rfl
@[simp] theorem callAt_chanRead (j : Nat) : (s.callAt i k).chanRead j = s.chanRead j := rfl
@[simp] theorem callAt_ringRead (j : Byte) : (s.callAt i k).ringRead j = s.ringRead j := rfl
@[simp] theorem callAt_listRead (j : Nat) : (s.callAt i k).listRead j = s.listRead j := rfl

end

/-! ### `goto` -/

section
variable (s : State) (p : SeqPos)

@[simp] theorem goto_par : (s.goto p).par = s.par := rfl
@[simp] theorem goto_de : (s.goto p).de = s.de := rfl
@[simp] theorem goto_baud : (s.goto p).baud = s.baud := rfl
@[simp] theorem goto_tmo : (s.goto p).tmo = s.tmo := rfl
@[simp] theorem goto_pendTick : (s.goto p).pendTick = s.pendTick := rfl
@[simp] theorem goto_ctl_chan : (s.goto p).ctl.chan = s.ctl.chan := rfl
@[simp] theorem goto_ctl_maxDmxAddr : (s.goto p).ctl.maxDmxAddr = s.ctl.maxDmxAddr := rfl
@[simp] theorem goto_ctl_outEn : (s.goto p).ctl.outEn = s.ctl.outEn := rfl
@[simp] theorem goto_ctl_discPending : (s.goto p).ctl.discPending = s.ctl.discPending := rfl
@[simp] theorem goto_ctl_dl : (s.goto p).ctl.dl = s.ctl.dl := rfl
@[simp] theorem goto_ctl_dlCount : (s.goto p).ctl.dlCount = s.ctl.dlCount := rfl
@[simp] theorem goto_ctl_dlOverflow : (s.goto p).ctl.dlOverflow = s.ctl.dlOverflow := rfl
@[simp] theorem goto_ctl_rb : (s.goto p).ctl.rb = s.ctl.rb := rfl
@[simp] theorem goto_ctl_head : (s.goto p).ctl.head = s.ctl.head := rfl
@[simp] theorem goto_ctl_tail : (s.goto p).ctl.tail = s.ctl.tail := rfl
@[simp] theorem goto_ctl_full : (s.goto p).ctl.full = s.ctl.full := rfl
@[simp] theorem goto_ctl_seq : (s.goto p).ctl.seq = p := rfl
@[simp] theorem goto_ctl_enq : (s.goto p).ctl.enq = s.ctl.enq := rfl
@[simp] theorem goto_ctl_answer : (s.goto p).ctl.answer = s.ctl.answer := rfl
@[simp] theorem goto_ctl_pendDrain : (s.goto p).ctl.pendDrain = s.ctl.pendDrain := rfl
@[simp] theorem goto_dev : (s.goto p).dev = s.dev := rfl
@[simp] theorem goto_ops : (s.goto p).ops = s.ops := rfl
@[simp] theorem goto_line : (s.goto p).line = s.line := rfl
@[simp] theorem goto_env : (s.goto p).env = s.env := rfl
@[simp] theorem goto_out : (s.goto p).out = s.out := rfl
@[simp] theorem goto_resets : (s.goto p).resets = s.resets := rfl
@[simp] theorem goto_chanRead (j : Nat) : (s.goto p).chanRead j = s.chanRead j := rfl
@[simp] theorem goto_ringRead (j : Byte) : (s.goto p).ringRead j = s.ringRead j := rfl
@[simp] theorem goto_listRead (j : Nat) : (s.goto p).listRead j = s.listRead j := rfl

end

/-! ### `setLed` -/

section
variable (s : State) (v : Bool)

@[simp] theorem setLed_par : (s.setLed v).par = s.par := rfl
@[simp] theorem setLed_de : (s.setLed v).de = s.de := rfl
@[simp] theorem setLed_baud : (s.setLed v).baud = s.baud := rfl
@[simp] theorem setLed_tmo : (s.setLed v).tmo = s.tmo := rfl
@[simp] theorem setLed_pendTick : (s.setLed v).pendTick = s.pendTick := rfl
@[simp] theorem setLed_ctl : (s.setLed v).ctl = s.ctl := rfl
@[simp] theorem setLed_dev_fs : (s.setLed v).dev.fs = s.dev.fs := rfl
@[simp] theorem setLed_dev_slot : (s.setLed v).dev.slot = s.dev.slot := rfl
@[simp] theorem setLed_dev_pollIdx : (s.setLed v).dev.pollIdx = s.dev.pollIdx := rfl
@[simp] theorem setLed_dev_pollAddr : (s.setLed v).dev.pollAddr = s.dev.pollAddr := rfl
@[simp] theorem setLed_dev_pollCap : (s.setLed v).dev.pollCap = s.dev.pollCap := rfl
@[simp] theorem setLed_dev_devVal : (s.setLed v).dev.devVal = s.dev.devVal := rfl
@[simp] theorem setLed_dev_duty : (s.setLed v).dev.duty = s.dev.duty := rfl
@[simp] theorem setLed_dev_actLed : (s.setLed v).dev.actLed = v := rfl
@[simp] theorem setLed_dev_addr : (s.setLed v).dev.addr = s.dev.addr := rfl
@[simp] theorem setLed_ops : (s.setLed v).ops = s.ops := rfl
@[simp] theorem setLed_line : (s.setLed v).line = s.line := rfl
@[simp] theorem setLed_env : (s.setLed v).env = s.env := rfl
@[simp] theorem setLed_out : (s.setLed v).out = s.out := rfl
@[simp] theorem setLed_resets : (s.setLed v).resets = s.resets := rfl
@[simp] theorem setLed_chanRead (j : Nat) : (s.setLed v).chanRead j = s.chanRead j := rfl
@[simp] theorem setLed_ringRead (j : Byte) : (s.setLed v).ringRead j = s.ringRead j := rfl
@[simp] theorem setLed_listRead (j : Nat) : (s.setLed v).listRead j = s.listRead j := rfl

end

/-! ### `setFs` -/

section
variable (s : State) (f : FsState)

@[simp] theorem setFs_par : (s.setFs f).par = s.par := rfl
@[simp] theorem setFs_de : (s.setFs f).de = s.de := rfl
@[simp] theorem setFs_baud : (s.setFs f).baud = s.baud := rfl
@[simp] theorem setFs_tmo : (s.setFs f).tmo = s.tmo := rfl
@[simp] theorem setFs_pendTick : (s.setFs f).pendTick = s.pendTick := rfl
@[simp] theorem setFs_ctl : (s.setFs f).ctl = s.ctl := rfl
@[simp] theorem setFs_dev_fs : (s.setFs f).dev.fs = f := rfl
@[simp] theorem setFs_dev_slot : (s.setFs f).dev.slot = s.dev.slot := rfl
@[simp] theorem setFs_dev_pollIdx : (s.setFs f).dev.pollIdx = s.dev.pollIdx := rfl
@[simp] theorem setFs_dev_pollAddr : (s.setFs f).dev.pollAddr = s.dev.pollAddr := rfl
@[simp] theorem setFs_dev_pollCap : (s.setFs f).dev.pollCap = s.dev.pollCap := rfl
@[simp] theorem setFs_dev_devVal : (s.setFs f).dev.devVal = s.dev.devVal := rfl
@[simp] theorem setFs_dev_duty : (s.setFs f).dev.duty = s.dev.duty := rfl
@[simp] theorem setFs_dev_actLed : (s.setFs f).dev.actLed = s.dev.actLed := rfl
@[simp] theorem setFs_dev_addr : (s.setFs f).dev.addr = s.dev.addr := rfl
@[simp] theorem setFs_ops : (s.setFs f).ops = s.ops := rfl
@[simp] theorem setFs_line : (s.setFs f).line = s.line := rfl
@[simp] theorem setFs_env : (s.setFs f).env = s.env := rfl
@[simp] theorem setFs_out : (s.setFs f).out = s.out := rfl
@[simp] theorem setFs_resets : (s.setFs f).resets = s.resets := rfl
@[simp] theorem setFs_chanRead (j : Nat) : (s.setFs f).chanRead j = s.chanRead j := rfl
@[simp] theorem setFs_ringRead (j : Byte) : (s.setFs f).ringRead j = s.ringRead j := rfl
@[simp] theorem setFs_listRead (j : Nat) : (s.setFs f).listRead j = s.listRead j := rfl

end

/-! ### `setEnq` -/

section
variable (s : State) (c : Option EnqCall)

@[simp] theorem setEnq_par : (s.setEnq c).par = s.par := rfl
@[simp] theorem setEnq_de : (s.setEnq c).de = s.de := rfl
@[simp] theorem setEnq_baud : (s.setEnq c).baud = s.baud := rfl
@[simp] theorem setEnq_tmo : (s.setEnq c).tmo = s.tmo := rfl
@[simp] theorem setEnq_pendTick : (s.setEnq c).pendTick = s.pendTick := rfl
@[simp] theorem setEnq_ctl_chan : (s.setEnq c).ctl.chan = s.ctl.chan := rfl
@[simp] theorem setEnq_ctl_maxDmxAddr : (s.setEnq c).ctl.maxDmxAddr = s.ctl.maxDmxAddr := rfl
@[simp] theorem setEnq_ctl_outEn : (s.setEnq c).ctl.outEn = s.ctl.outEn := rfl
@[simp] theorem setEnq_ctl_discPending : (s.setEnq c).ctl.discPending = s.ctl.discPending := rfl
@[simp] theorem setEnq_ctl_dl : (s.setEnq c).ctl.dl = s.ctl.dl := rfl
@[simp] theorem setEnq_ctl_dlCount : (s.setEnq c).ctl.dlCount = s.ctl.dlCount := rfl
@[simp] theorem setEnq_ctl_dlOverflow : (s.setEnq c).ctl.dlOverflow = s.ctl.dlOverflow := rfl
@[simp] theorem setEnq_ctl_rb : (s.setEnq c).ctl.rb = s.ctl.rb := rfl
@[simp] theorem setEnq_ctl_head : (s.setEnq c).ctl.head = s.ctl.head := rfl
@[simp] theorem setEnq_ctl_tail : (s.setEnq c).ctl.tail = s.ctl.tail := rfl
@[simp] theorem setEnq_ctl_full : (s.setEnq c).ctl.full = s.ctl.full := rfl
@[simp] theorem setEnq_ctl_seq : (s.setEnq c).ctl.seq = s.ctl.seq := rfl
@[simp] theorem setEnq_ctl_enq : (s.setEnq c).ctl.enq = c := rfl
@[simp] theorem setEnq_ctl_answer : (s.setEnq c).ctl.answer = s.ctl.answer := rfl
@[simp] theorem setEnq_ctl_pendDrain : (s.setEnq c).ctl.pendDrain = s.ctl.pendDrain := rfl
@[simp] theorem setEnq_dev : (s.setEnq c).dev = s.dev := rfl
@[simp] theorem setEnq_ops : (s.setEnq c).ops = s.ops := rfl
@[simp] theorem setEnq_line : (s.setEnq c).line = s.line := rfl
@[simp] theorem setEnq_env : (s.setEnq c).env = s.env := rfl
@[simp] theorem setEnq_out : (s.setEnq c).out = s.out := rfl
@[simp] theorem setEnq_resets : (s.setEnq c).resets = s.resets := rfl
@[simp] theorem setEnq_chanRead (j : Nat) : (s.setEnq c).chanRead j = s.chanRead j := rfl
@[simp] theorem setEnq_ringRead (j : Byte) : (s.setEnq c).ringRead j = s.ringRead j := rfl
@[simp] theorem setEnq_listRead (j : Nat) : (s.setEnq c).listRead j = s.listRead j := rfl

end

/-! ### `chanWrite` -/

section
variable (s : State) (i : Nat) (v : Byte)

@[simp] theorem chanWrite_par : (s.chanWrite i v).par = s.par := rfl
@[simp] theorem chanWrite_de : (s.chanWrite i v).de = s.de := rfl
@[simp] theorem chanWrite_baud : (s.chanWrite i v).baud = s.baud := rfl
@[simp] theorem chanWrite_tmo : (s.chanWrite i v).tmo = s.tmo := rfl
@[simp] theorem chanWrite_pendTick : (s.chanWrite i v).pendTick = s.pendTick := rfl
@[simp] theorem chanWrite_ctl_chan : (s.chanWrite i v).ctl.chan = Memory.write chanBlank s.ctl.chan i v := rfl
@[simp] theorem chanWrite_ctl_maxDmxAddr : (s.chanWrite i v).ctl.maxDmxAddr = s.ctl.maxDmxAddr := rfl
@[simp] theorem chanWrite_ctl_outEn : (s.chanWrite i v).ctl.outEn = s.ctl.outEn := rfl
@[simp] theorem chanWrite_ctl_discPending : (s.chanWrite i v).ctl.discPending = s.ctl.discPending := rfl
@[simp] theorem chanWrite_ctl_dl : (s.chanWrite i v).ctl.dl = s.ctl.dl := rfl
@[simp] theorem chanWrite_ctl_dlCount : (s.chanWrite i v).ctl.dlCount = s.ctl.dlCount := rfl
@[simp] theorem chanWrite_ctl_dlOverflow : (s.chanWrite i v).ctl.dlOverflow = s.ctl.dlOverflow := rfl
@[simp] theorem chanWrite_ctl_rb : (s.chanWrite i v).ctl.rb = s.ctl.rb := rfl
@[simp] theorem chanWrite_ctl_head : (s.chanWrite i v).ctl.head = s.ctl.head := rfl
@[simp] theorem chanWrite_ctl_tail : (s.chanWrite i v).ctl.tail = s.ctl.tail := rfl
@[simp] theorem chanWrite_ctl_full : (s.chanWrite i v).ctl.full = s.ctl.full := rfl
@[simp] theorem chanWrite_ctl_seq : (s.chanWrite i v).ctl.seq = s.ctl.seq := rfl
@[simp] theorem chanWrite_ctl_enq : (s.chanWrite i v).ctl.enq = s.ctl.enq := rfl
@[simp] theorem chanWrite_ctl_answer : (s.chanWrite i v).ctl.answer = s.ctl.answer := rfl
@[simp] theorem chanWrite_ctl_pendDrain : (s.chanWrite i v).ctl.pendDrain = s.ctl.pendDrain := rfl
@[simp] theorem chanWrite_dev : (s.chanWrite i v).dev = s.dev := rfl
@[simp] theorem chanWrite_ops : (s.chanWrite i v).ops = s.ops := rfl
@[simp] theorem chanWrite_line : (s.chanWrite i v).line = s.line := rfl
@[simp] theorem chanWrite_env : (s.chanWrite i v).env = s.env := rfl
@[simp] theorem chanWrite_out : (s.chanWrite i v).out = s.out := rfl
@[simp] theorem chanWrite_resets : (s.chanWrite i v).resets = s.resets := rfl
@[simp] theorem chanWrite_ringRead (j : Byte) : (s.chanWrite i v).ringRead j = s.ringRead j := rfl
@[simp] theorem chanWrite_listRead (j : Nat) : (s.chanWrite i v).listRead j = s.listRead j := rfl

end

/-! ### `ringWrite` -/

section
variable (s : State) (i v : Byte)

@[simp] theorem ringWrite_par : (s.ringWrite i v).par = s.par := rfl
@[simp] theorem ringWrite_de : (s.ringWrite i v).de = s.de := rfl
@[simp] theorem ringWrite_baud : (s.ringWrite i v).baud = s.baud := rfl
@[simp] theorem ringWrite_tmo : (s.ringWrite i v).tmo = s.tmo := rfl
@[simp] theorem ringWrite_pendTick : (s.ringWrite i v).pendTick = s.pendTick := rfl
@[simp] theorem ringWrite_ctl_chan : (s.ringWrite i v).ctl.chan = s.ctl.chan := rfl
@[simp] theorem ringWrite_ctl_maxDmxAddr : (s.ringWrite i v).ctl.maxDmxAddr = s.ctl.maxDmxAddr := rfl
@[simp] theorem ringWrite_ctl_outEn : (s.ringWrite i v).ctl.outEn = s.ctl.outEn := rfl
@[simp] theorem ringWrite_ctl_discPending : (s.ringWrite i v).ctl.discPending = s.ctl.discPending := rfl
@[simp] theorem ringWrite_ctl_dl : (s.ringWrite i v).ctl.dl = s.ctl.dl := rfl
@[simp] theorem ringWrite_ctl_dlCount : (s.ringWrite i v).ctl.dlCount = s.ctl.dlCount := rfl
@[simp] theorem ringWrite_ctl_dlOverflow : (s.ringWrite i v).ctl.dlOverflow = s.ctl.dlOverflow := rfl
@[simp] theorem ringWrite_ctl_rb : (s.ringWrite i v).ctl.rb = Memory.write ringBlank s.ctl.rb i.toNat v := rfl
@[simp] theorem ringWrite_ctl_head : (s.ringWrite i v).ctl.head = s.ctl.head := rfl
@[simp] theorem ringWrite_ctl_tail : (s.ringWrite i v).ctl.tail = s.ctl.tail := rfl
@[simp] theorem ringWrite_ctl_full : (s.ringWrite i v).ctl.full = s.ctl.full := rfl
@[simp] theorem ringWrite_ctl_seq : (s.ringWrite i v).ctl.seq = s.ctl.seq := rfl
@[simp] theorem ringWrite_ctl_enq : (s.ringWrite i v).ctl.enq = s.ctl.enq := rfl
@[simp] theorem ringWrite_ctl_answer : (s.ringWrite i v).ctl.answer = s.ctl.answer := rfl
@[simp] theorem ringWrite_ctl_pendDrain : (s.ringWrite i v).ctl.pendDrain = s.ctl.pendDrain := rfl
@[simp] theorem ringWrite_dev : (s.ringWrite i v).dev = s.dev := rfl
@[simp] theorem ringWrite_ops : (s.ringWrite i v).ops = s.ops := rfl
@[simp] theorem ringWrite_line : (s.ringWrite i v).line = s.line := rfl
@[simp] theorem ringWrite_env : (s.ringWrite i v).env = s.env := rfl
@[simp] theorem ringWrite_out : (s.ringWrite i v).out = s.out := rfl
@[simp] theorem ringWrite_resets : (s.ringWrite i v).resets = s.resets := rfl
@[simp] theorem ringWrite_chanRead (j : Nat) : (s.ringWrite i v).chanRead j = s.chanRead j := rfl
@[simp] theorem ringWrite_listRead (j : Nat) : (s.ringWrite i v).listRead j = s.listRead j := rfl

end

/-! ### `listWrite` -/

section
variable (s : State) (i : Nat) (v : Addr)

@[simp] theorem listWrite_par : (s.listWrite i v).par = s.par := rfl
@[simp] theorem listWrite_de : (s.listWrite i v).de = s.de := rfl
@[simp] theorem listWrite_baud : (s.listWrite i v).baud = s.baud := rfl
@[simp] theorem listWrite_tmo : (s.listWrite i v).tmo = s.tmo := rfl
@[simp] theorem listWrite_pendTick : (s.listWrite i v).pendTick = s.pendTick := rfl
@[simp] theorem listWrite_ctl_chan : (s.listWrite i v).ctl.chan = s.ctl.chan := rfl
@[simp] theorem listWrite_ctl_maxDmxAddr : (s.listWrite i v).ctl.maxDmxAddr = s.ctl.maxDmxAddr := rfl
@[simp] theorem listWrite_ctl_outEn : (s.listWrite i v).ctl.outEn = s.ctl.outEn := rfl
@[simp] theorem listWrite_ctl_discPending : (s.listWrite i v).ctl.discPending = s.ctl.discPending := rfl
@[simp] theorem listWrite_ctl_dl : (s.listWrite i v).ctl.dl = Memory.write listBlank s.ctl.dl i v := rfl
@[simp] theorem listWrite_ctl_dlCount : (s.listWrite i v).ctl.dlCount = s.ctl.dlCount := rfl
@[simp] theorem listWrite_ctl_dlOverflow : (s.listWrite i v).ctl.dlOverflow = s.ctl.dlOverflow := rfl
@[simp] theorem listWrite_ctl_rb : (s.listWrite i v).ctl.rb = s.ctl.rb := rfl
@[simp] theorem listWrite_ctl_head : (s.listWrite i v).ctl.head = s.ctl.head := rfl
@[simp] theorem listWrite_ctl_tail : (s.listWrite i v).ctl.tail = s.ctl.tail := rfl
@[simp] theorem listWrite_ctl_full : (s.listWrite i v).ctl.full = s.ctl.full := rfl
@[simp] theorem listWrite_ctl_seq : (s.listWrite i v).ctl.seq = s.ctl.seq := rfl
@[simp] theorem listWrite_ctl_enq : (s.listWrite i v).ctl.enq = s.ctl.enq := rfl
@[simp] theorem listWrite_ctl_answer : (s.listWrite i v).ctl.answer = s.ctl.answer := rfl
@[simp] theorem listWrite_ctl_pendDrain : (s.listWrite i v).ctl.pendDrain = s.ctl.pendDrain := rfl
@[simp] theorem listWrite_dev : (s.listWrite i v).dev = s.dev := rfl
@[simp] theorem listWrite_ops : (s.listWrite i v).ops = s.ops := rfl
@[simp] theorem listWrite_line : (s.listWrite i v).line = s.line := rfl
@[simp] theorem listWrite_env : (s.listWrite i v).env = s.env := rfl
@[simp] theorem listWrite_out : (s.listWrite i v).out = s.out := rfl
@[simp] theorem listWrite_resets : (s.listWrite i v).resets = s.resets := rfl
@[simp] theorem listWrite_chanRead (j : Nat) : (s.listWrite i v).chanRead j = s.chanRead j := rfl
@[simp] theorem listWrite_ringRead (j : Byte) : (s.listWrite i v).ringRead j = s.ringRead j := rfl

end

/-! ### Draws: the value drawn, and the state after it -/

section
variable (s : State)

@[simp] theorem drawTxEmpty_fst : s.drawTxEmpty.1 = s.env.txEmpty.next.1 := rfl
@[simp] theorem drawTxEmpty_env : s.drawTxEmpty.2.env = { s.env with txEmpty := s.env.txEmpty.next.2 } := rfl
@[simp] theorem drawTxEmpty_par : s.drawTxEmpty.2.par = s.par := rfl
@[simp] theorem drawTxEmpty_de : s.drawTxEmpty.2.de = s.de := rfl
@[simp] theorem drawTxEmpty_baud : s.drawTxEmpty.2.baud = s.baud := rfl
@[simp] theorem drawTxEmpty_tmo : s.drawTxEmpty.2.tmo = s.tmo := rfl
@[simp] theorem drawTxEmpty_pendTick : s.drawTxEmpty.2.pendTick = s.pendTick := rfl
@[simp] theorem drawTxEmpty_ctl : s.drawTxEmpty.2.ctl = s.ctl := rfl
@[simp] theorem drawTxEmpty_dev : s.drawTxEmpty.2.dev = s.dev := rfl
@[simp] theorem drawTxEmpty_ops : s.drawTxEmpty.2.ops = s.ops := rfl
@[simp] theorem drawTxEmpty_line : s.drawTxEmpty.2.line = s.line := rfl
@[simp] theorem drawTxEmpty_out : s.drawTxEmpty.2.out = s.out := rfl
@[simp] theorem drawTxEmpty_resets : s.drawTxEmpty.2.resets = s.resets := rfl
@[simp] theorem drawRxIdle_fst : s.drawRxIdle.1 = s.env.rxIdle.next.1 := rfl
@[simp] theorem drawRxIdle_env : s.drawRxIdle.2.env = { s.env with rxIdle := s.env.rxIdle.next.2 } := rfl
@[simp] theorem drawRxIdle_par : s.drawRxIdle.2.par = s.par := rfl
@[simp] theorem drawRxIdle_de : s.drawRxIdle.2.de = s.de := rfl
@[simp] theorem drawRxIdle_baud : s.drawRxIdle.2.baud = s.baud := rfl
@[simp] theorem drawRxIdle_tmo : s.drawRxIdle.2.tmo = s.tmo := rfl
@[simp] theorem drawRxIdle_pendTick : s.drawRxIdle.2.pendTick = s.pendTick := rfl
@[simp] theorem drawRxIdle_ctl : s.drawRxIdle.2.ctl = s.ctl := rfl
@[simp] theorem drawRxIdle_dev : s.drawRxIdle.2.dev = s.dev := rfl
@[simp] theorem drawRxIdle_ops : s.drawRxIdle.2.ops = s.ops := rfl
@[simp] theorem drawRxIdle_line : s.drawRxIdle.2.line = s.line := rfl
@[simp] theorem drawRxIdle_out : s.drawRxIdle.2.out = s.out := rfl
@[simp] theorem drawRxIdle_resets : s.drawRxIdle.2.resets = s.resets := rfl
@[simp] theorem drawTxReady_fst : s.drawTxReady.1 = s.env.txReady.next.1 := rfl
@[simp] theorem drawTxReady_env : s.drawTxReady.2.env = { s.env with txReady := s.env.txReady.next.2 } := rfl
@[simp] theorem drawTxReady_par : s.drawTxReady.2.par = s.par := rfl
@[simp] theorem drawTxReady_de : s.drawTxReady.2.de = s.de := rfl
@[simp] theorem drawTxReady_baud : s.drawTxReady.2.baud = s.baud := rfl
@[simp] theorem drawTxReady_tmo : s.drawTxReady.2.tmo = s.tmo := rfl
@[simp] theorem drawTxReady_pendTick : s.drawTxReady.2.pendTick = s.pendTick := rfl
@[simp] theorem drawTxReady_ctl : s.drawTxReady.2.ctl = s.ctl := rfl
@[simp] theorem drawTxReady_dev : s.drawTxReady.2.dev = s.dev := rfl
@[simp] theorem drawTxReady_ops : s.drawTxReady.2.ops = s.ops := rfl
@[simp] theorem drawTxReady_line : s.drawTxReady.2.line = s.line := rfl
@[simp] theorem drawTxReady_out : s.drawTxReady.2.out = s.out := rfl
@[simp] theorem drawTxReady_resets : s.drawTxReady.2.resets = s.resets := rfl
@[simp] theorem drawRx_fst : s.drawRx.1 = s.env.rx.next.1 := rfl
@[simp] theorem drawRx_env : s.drawRx.2.env = { s.env with rx := s.env.rx.next.2 } := rfl
@[simp] theorem drawRx_par : s.drawRx.2.par = s.par := rfl
@[simp] theorem drawRx_de : s.drawRx.2.de = s.de := rfl
@[simp] theorem drawRx_baud : s.drawRx.2.baud = s.baud := rfl
@[simp] theorem drawRx_tmo : s.drawRx.2.tmo = s.tmo := rfl
@[simp] theorem drawRx_pendTick : s.drawRx.2.pendTick = s.pendTick := rfl
@[simp] theorem drawRx_ctl : s.drawRx.2.ctl = s.ctl := rfl
@[simp] theorem drawRx_dev : s.drawRx.2.dev = s.dev := rfl
@[simp] theorem drawRx_ops : s.drawRx.2.ops = s.ops := rfl
@[simp] theorem drawRx_line : s.drawRx.2.line = s.line := rfl
@[simp] theorem drawRx_out : s.drawRx.2.out = s.out := rfl
@[simp] theorem drawRx_resets : s.drawRx.2.resets = s.resets := rfl
@[simp] theorem drawPins_fst : s.drawPins.1 = s.env.pins.next.1 := rfl
@[simp] theorem drawPins_env : s.drawPins.2.env = { s.env with pins := s.env.pins.next.2 } := rfl
@[simp] theorem drawPins_par : s.drawPins.2.par = s.par := rfl
@[simp] theorem drawPins_de : s.drawPins.2.de = s.de := rfl
@[simp] theorem drawPins_baud : s.drawPins.2.baud = s.baud := rfl
@[simp] theorem drawPins_tmo : s.drawPins.2.tmo = s.tmo := rfl
@[simp] theorem drawPins_pendTick : s.drawPins.2.pendTick = s.pendTick := rfl
@[simp] theorem drawPins_ctl : s.drawPins.2.ctl = s.ctl := rfl
@[simp] theorem drawPins_dev : s.drawPins.2.dev = s.dev := rfl
@[simp] theorem drawPins_ops : s.drawPins.2.ops = s.ops := rfl
@[simp] theorem drawPins_line : s.drawPins.2.line = s.line := rfl
@[simp] theorem drawPins_out : s.drawPins.2.out = s.out := rfl
@[simp] theorem drawPins_resets : s.drawPins.2.resets = s.resets := rfl
@[simp] theorem drawPresent_fst : s.drawPresent.1 = s.env.present.next.1 := rfl
@[simp] theorem drawPresent_env : s.drawPresent.2.env = { s.env with present := s.env.present.next.2 } := rfl
@[simp] theorem drawPresent_par : s.drawPresent.2.par = s.par := rfl
@[simp] theorem drawPresent_de : s.drawPresent.2.de = s.de := rfl
@[simp] theorem drawPresent_baud : s.drawPresent.2.baud = s.baud := rfl
@[simp] theorem drawPresent_tmo : s.drawPresent.2.tmo = s.tmo := rfl
@[simp] theorem drawPresent_pendTick : s.drawPresent.2.pendTick = s.pendTick := rfl
@[simp] theorem drawPresent_ctl : s.drawPresent.2.ctl = s.ctl := rfl
@[simp] theorem drawPresent_dev : s.drawPresent.2.dev = s.dev := rfl
@[simp] theorem drawPresent_ops : s.drawPresent.2.ops = s.ops := rfl
@[simp] theorem drawPresent_line : s.drawPresent.2.line = s.line := rfl
@[simp] theorem drawPresent_out : s.drawPresent.2.out = s.out := rfl
@[simp] theorem drawPresent_resets : s.drawPresent.2.resets = s.resets := rfl
@[simp] theorem drawEvent_fst : s.drawEvent.1 = s.env.events.next.1 := rfl
@[simp] theorem drawEvent_env : s.drawEvent.2.env = { s.env with events := s.env.events.next.2 } := rfl
@[simp] theorem drawEvent_par : s.drawEvent.2.par = s.par := rfl
@[simp] theorem drawEvent_de : s.drawEvent.2.de = s.de := rfl
@[simp] theorem drawEvent_baud : s.drawEvent.2.baud = s.baud := rfl
@[simp] theorem drawEvent_tmo : s.drawEvent.2.tmo = s.tmo := rfl
@[simp] theorem drawEvent_pendTick : s.drawEvent.2.pendTick = s.pendTick := rfl
@[simp] theorem drawEvent_ctl : s.drawEvent.2.ctl = s.ctl := rfl
@[simp] theorem drawEvent_dev : s.drawEvent.2.dev = s.dev := rfl
@[simp] theorem drawEvent_ops : s.drawEvent.2.ops = s.ops := rfl
@[simp] theorem drawEvent_line : s.drawEvent.2.line = s.line := rfl
@[simp] theorem drawEvent_out : s.drawEvent.2.out = s.out := rfl
@[simp] theorem drawEvent_resets : s.drawEvent.2.resets = s.resets := rfl
@[simp] theorem drawCut_fst : s.drawCut.1 = s.env.cut.next.1 := rfl
@[simp] theorem drawCut_env : s.drawCut.2.env = { s.env with cut := s.env.cut.next.2 } := rfl
@[simp] theorem drawCut_par : s.drawCut.2.par = s.par := rfl
@[simp] theorem drawCut_de : s.drawCut.2.de = s.de := rfl
@[simp] theorem drawCut_baud : s.drawCut.2.baud = s.baud := rfl
@[simp] theorem drawCut_tmo : s.drawCut.2.tmo = s.tmo := rfl
@[simp] theorem drawCut_pendTick : s.drawCut.2.pendTick = s.pendTick := rfl
@[simp] theorem drawCut_ctl : s.drawCut.2.ctl = s.ctl := rfl
@[simp] theorem drawCut_dev : s.drawCut.2.dev = s.dev := rfl
@[simp] theorem drawCut_ops : s.drawCut.2.ops = s.ops := rfl
@[simp] theorem drawCut_line : s.drawCut.2.line = s.line := rfl
@[simp] theorem drawCut_out : s.drawCut.2.out = s.out := rfl
@[simp] theorem drawCut_resets : s.drawCut.2.resets = s.resets := rfl

end

/-! ### The start of an operation's lines -/

section
variable (s : State)

@[simp] theorem started_par : s.started.par = s.par := rfl
@[simp] theorem started_de : s.started.de = s.de := rfl
@[simp] theorem started_baud : s.started.baud = s.baud := rfl
@[simp] theorem started_tmo : s.started.tmo = s.tmo := rfl
@[simp] theorem started_pendTick : s.started.pendTick = s.pendTick := rfl
@[simp] theorem started_ctl : s.started.ctl = s.ctl := rfl
@[simp] theorem started_dev : s.started.dev = s.dev := rfl
@[simp] theorem started_ops : s.started.ops = s.ops := rfl
@[simp] theorem started_line : s.started.line = 0 := rfl
@[simp] theorem started_env : s.started.env = { s.env with cut := s.env.cut.next.2 } := rfl
@[simp] theorem started_out : s.started.out = s.out := rfl
@[simp] theorem started_resets : s.started.resets = s.resets := rfl
@[simp] theorem started_chanRead (j : Nat) : s.started.chanRead j = s.chanRead j := rfl
@[simp] theorem started_ringRead (j : Byte) : s.started.ringRead j = s.ringRead j := rfl
@[simp] theorem started_listRead (j : Nat) : s.started.listRead j = s.listRead j := rfl

end

/-! ### Reset -/

section
variable (p : Params) (env : Env) (out : Outputs) (n : Nat)

@[simp] theorem resetWith_par : (State.resetWith p env out n).par = p := rfl
@[simp] theorem resetWith_de : (State.resetWith p env out n).de = false := rfl
@[simp] theorem resetWith_baud : (State.resetWith p env out n).baud = .nominal := rfl
@[simp] theorem resetWith_tmo : (State.resetWith p env out n).tmo = Counters.atReset := rfl
@[simp] theorem resetWith_pendTick : (State.resetWith p env out n).pendTick = false := rfl
@[simp] theorem resetWith_ctl : (State.resetWith p env out n).ctl = Controller.atReset p := rfl
@[simp] theorem resetWith_dev : (State.resetWith p env out n).dev = Device.atReset := rfl
@[simp] theorem resetWith_ops : (State.resetWith p env out n).ops = [] := rfl
@[simp] theorem resetWith_line : (State.resetWith p env out n).line = 0 := rfl
@[simp] theorem resetWith_env : (State.resetWith p env out n).env = env := rfl
@[simp] theorem resetWith_out : (State.resetWith p env out n).out = out := rfl
@[simp] theorem resetWith_resets : (State.resetWith p env out n).resets = n := rfl

end

end Sys2Proof.Machine
end

