-- ==== Sys2Proof/Laws/Ops.lean ====
section
/-! SUPPORT. One lemma for each shared operation that says once everything it can do: the running of an
operation's lines, the requests, the line, the counters, the ring's steps, the commands and the received
characters. Later proofs cite these and do not unfold the operations. -/

namespace Sys2Proof.Machine

/-! ### Roles -/

@[simp] theorem inRole_of_role {r : Role} {s : State} (k : Result) (h : s.par.role = r) :
    inRole r s k = k := if_pos h

@[simp] theorem inRole_of_not_role {r : Role} {s : State} (k : Result) (h : s.par.role ≠ r) :
    inRole r s k = .refused .absentInRole := if_neg h

/-- What an operation of one role answers when it takes a next state. -/
theorem inRole_eq_next {r : Role} {s t : State} {k : Result} :
    inRole r s k = .next t ↔ s.par.role = r ∧ k = .next t := by
  unfold inRole
  split <;> simp_all

/-! ### Draws -/

@[simp] theorem Draw.next_push {α : Type} (x : α) (d : Draw α) : (d.push x).next = (x, d) := rfl

@[simp] theorem Draw.length_take {α : Type} (n : Nat) (d : Draw α) : (d.take n).length = n := by
  induction n generalizing d with
  | zero => rfl
  | succ n ih => simp [Draw.take, ih]

theorem Draw.all_next {α : Type} {p : α → Bool} {d : Draw α} (h : d.all p = true) :
    p d.next.1 = true ∧ d.next.2.all p = true := by
  obtain ⟨now, rest, loop⟩ := d
  cases now <;> cases loop <;> simp_all [Draw.all, Draw.next]

/-- A draw whose `now` and `loop` are empty answers the same value for ever. -/
@[simp] theorem Draw.next_constant {α : Type} (x : α) : Draw.next ⟨[], x, []⟩ = (x, ⟨[], x, []⟩) := rfl

/-! ### `UartPut` (R12) -/

theorem uartPutLine_ready {s : State} (b : Byte) (next : State → LineEnd) (h : s.env.txReady.next.1 = true) :
    uartPutLine b next s = next (s.drawTxReady.2.uartPut b) := if_pos h

theorem uartPutLine_busy {s : State} (b : Byte) (next : State → LineEnd) (h : s.env.txReady.next.1 = false) :
    uartPutLine b next s = .hold s.drawTxReady.2 := if_neg (by simp [h])

/-! ### The lines of an operation -/

section
variable {i : Instr} {lines : Nat → State → LineEnd} {fuel n k k' : Nat} {cut : Option Nat}
  {s s' : State}

theorem runLines_goOn (h : lines k s = .goOn k' s') :
    runLines i lines (fuel + 1) none k s = runLines i lines fuel none k' s' := by
  simp [runLines, h]

theorem runLines_goOn_stop (h : lines k s = .goOn k' s') :
    runLines i lines (fuel + 1) (some 0) k s = .next (s'.callAt i k') := by
  simp [runLines, h]

theorem runLines_goOn_cut (h : lines k s = .goOn k' s') :
    runLines i lines (fuel + 1) (some (n + 1)) k s = runLines i lines fuel (some n) k' s' := by
  simp [runLines, h]

theorem runLines_hold (h : lines k s = .hold s') :
    runLines i lines (fuel + 1) cut k s = .next (s'.callAt i k) := by
  simp [runLines, h]

theorem runLines_call {j : Instr} (h : lines k s = .call j k' s') :
    runLines i lines (fuel + 1) cut k s = .next ((s'.callAt i k').callAt j 0) := by
  simp [runLines, h]

theorem runLines_last {im : Image} (h : lines k s = .last im s') :
    runLines i lines (fuel + 1) cut k s = .next { s' with ops := ⟨im, 0⟩ :: s'.ops } := by
  simp [runLines, h]

theorem runLines_ret (h : lines k s = .ret s') :
    runLines i lines (fuel + 1) cut k s = .next s' := by
  simp [runLines, h]

theorem runLines_stop {f : Fault} (h : lines k s = .stop f) :
    runLines i lines (fuel + 1) cut k s = .fault f := by
  simp [runLines, h]

end

/-- The induction over the lines an operation runs, once: if `P k s` holds before every line `k`, the state
reached meets `Q`. -/
theorem runLines_induct {i : Instr} {lines : Nat → State → LineEnd} {P : Nat → State → Prop}
    {Q : State → Prop} (hcut : ∀ k s, P k s → Q (s.callAt i k))
    (hgo : ∀ k s k' s', P k s → lines k s = .goOn k' s' → P k' s')
    (hhold : ∀ k s s', P k s → lines k s = .hold s' → Q (s'.callAt i k))
    (hcall : ∀ k s j k' s', P k s → lines k s = .call j k' s' → Q ((s'.callAt i k').callAt j 0))
    (hlast : ∀ k s im s', P k s → lines k s = .last im s' → Q { s' with ops := ⟨im, 0⟩ :: s'.ops })
    (hret : ∀ k s s', P k s → lines k s = .ret s' → Q s') :
    ∀ (fuel : Nat) (cut : Option Nat) (k : Nat) (s t : State), P k s →
      runLines i lines fuel cut k s = .next t → Q t := by
  intro fuel
  induction fuel with
  | zero =>
    intro cut k s t hP h
    cases h
    exact hcut k s hP
  | succ fuel ih =>
    intro cut k s t hP h
    rcases hl : lines k s with ⟨k', s'⟩ | s' | ⟨j, k', s'⟩ | ⟨im, s'⟩ | s' | f <;>
      simp only [runLines, hl] at h
    · have hP' := hgo k s k' s' hP hl
      rcases cut with _ | _ | n
      · exact ih _ _ _ _ hP' h
      · cases h
        exact hcut k' s' hP'
      · exact ih _ _ _ _ hP' h
    · cases h
      exact hhold k s s' hP hl
    · cases h
      exact hcall k s j k' s' hP hl
    · cases h
      exact hlast k s im s' hP hl
    · cases h
      exact hret k s t hP hl
    · cases h

/-- What every state a line may leave is to meet. -/
def LineEnd.Leaves (P : State → Prop) : LineEnd → Prop
  | .goOn _ s | .hold s | .call _ _ s | .last _ s | .ret s => P s
  | .stop _ => True

/-- A frame: what no line changes, and the calls do not decide, the operation does not change. -/
theorem perform_frame {α : Type} {i : Instr} {lines : Nat → State → LineEnd} {f : State → α}
    (hops : ∀ (s : State) (ops : List Call), f { s with ops := ops } = f s)
    (hlines : ∀ k s, (lines k s).Leaves fun s' => f s' = f s) {fuel : Nat} {s t : State}
    (h : perform i lines fuel s = .next t) : f t = f s.started := by
  refine runLines_induct (P := fun _ u => f u = f s.started)
    (Q := fun u => f u = f s.started) ?_ ?_ ?_ ?_ ?_ ?_ fuel _ _ _ t rfl h
  · intro k u hu
    exact (hops u _).trans hu
  all_goals intro k u
  · intro k' u' hu hl
    have := hlines k u
    rw [hl] at this
    exact Eq.trans this hu
  · intro u' hu hl
    have := hlines k u
    rw [hl] at this
    exact (hops u' _).trans (Eq.trans this hu)
  · intro j k' u' hu hl
    have := hlines k u
    rw [hl] at this
    exact (hops u' _).trans (Eq.trans this hu)
  · intro im u' hu hl
    have := hlines k u
    rw [hl] at this
    exact (hops u' _).trans (Eq.trans this hu)
  · intro u' hu hl
    have := hlines k u
    rw [hl] at this
    exact Eq.trans this hu

/-- An operation that is not stopped: the run of its lines. -/
theorem perform_of_runsFrom {i : Instr} {lines : Nat → State → LineEnd} {fuel k : Nat} {s : State}
    (h : s.runsFrom k = true) : perform i lines fuel s = runLines i lines fuel none k s.started := by
  simp only [State.runsFrom, Bool.and_eq_true, decide_eq_true_eq, Option.isNone_iff_eq_none] at h
  simp [perform, h.1, h.2]

/-- An operation that stops after one line. -/
theorem perform_of_runsOnly {i : Instr} {lines : Nat → State → LineEnd} {fuel k : Nat} {s : State}
    (h : s.runsOnly k = true) :
    perform i lines fuel s = runLines i lines fuel (some 0) k s.started := by
  simp only [State.runsOnly, Bool.and_eq_true, decide_eq_true_eq] at h
  simp [perform, h.1, h.2]

/-! ### Requests -/

@[simp] theorem raise_pendTick (s : State) (e : Event) :
    (s.raise e).pendTick = (s.pendTick || e.tick) := rfl

@[simp] theorem raise_pendDrain (s : State) (e : Event) :
    (s.raise e).ctl.pendDrain = (s.ctl.pendDrain || (e.drain && decide (s.par.role = .controller))) :=
  rfl

/-- Raising no request changes nothing. -/
theorem raise_of_isQuiet {s : State} {e : Event} (h : e.isQuiet = true) : s.raise e = s := by
  simp only [Event.isQuiet, Bool.and_eq_true, Bool.not_eq_true'] at h
  simp [State.raise, h.1.1, h.1.2]

/-- A handler is one of the two, and runs only with its request pending. -/
theorem handler_eq_some {s : State} {e : Event} {i : Instr} (h : s.handler e = some i) :
    i = .tick ∧ s.pendTick = true ∨ i = .drainOne ∧ s.ctl.pendDrain = true := by
  unfold State.handler at h
  split at h
  · simp_all
  · split at h <;> simp_all

theorem handler_eq_none {s : State} {e : Event} :
    s.handler e = none ↔ s.pendTick = false ∧ s.ctl.pendDrain = false := by
  unfold State.handler
  cases s.pendTick <;> cases s.ctl.pendDrain <;> cases e.tickFirst <;> simp

/-! ### The line -/

/-- `SetDE(v)`: the line takes the value, with a wire event if it changed. -/
theorem setDe_eq (s : State) (v : Bool) :
    s.setDe v = { s with
      de := v
      out := { s.out with wire := s.out.wire ++ if s.de = v then [] else [.de v] } } := by
  unfold State.setDe
  split
  · subst_vars; simp
  · rfl

/-! ### Counters and the indicator -/

theorem counter_setCounter (s : State) (c d : CounterId) (n : Nat) :
    (s.setCounter c n).counter d = if d = c then n else s.counter d := by
  cases c <;> cases d <;> rfl

theorem changeCounter_eq (s : State) : s.changeCounter = s.counter s.par.changeCtr.id := by
  unfold State.changeCounter
  split
  · cases s.par.changeCtr <;> simp_all [ChangeCtr.id, State.counter]
  · rfl

/-- Setting a counter changes the counters only. -/
theorem setCounter_eq (s : State) (c : CounterId) (n : Nat) :
    s.setCounter c n = { s with tmo := (s.setCounter c n).tmo } := by
  cases c <;> rfl

/-- One expiry: it is recorded, and in role Device the activity indicator is updated. -/
theorem expire_eq (s : State) (c : CounterId) :
    s.expire c = { s with
      dev := { s.dev with
        actLed := if s.par.role = .device then ledAfter (s.par.expire c) s.dev.actLed
          else s.dev.actLed }
      out := { s.out with fired := s.out.fired ++ [c] } } := by
  simp only [State.expire]
  split <;> rename_i h <;> (replace h : s.par.role = _ := h) <;> simp [State.setLed, h]

/-- One counter's tick changes the counters, the indicator and the record of expiries only. -/
theorem tickCounter_eq (c : CounterId) (s : State) :
    tickCounter c s = { s with
      tmo := (tickCounter c s).tmo
      dev := { s.dev with actLed := (tickCounter c s).dev.actLed }
      out := { s.out with fired := (tickCounter c s).out.fired } } := by
  simp only [tickCounter]
  split
  · rfl
  · split
    · rw [expire_eq, setCounter_eq]
    · rw [setCounter_eq]

/-- One counter's tick: toward zero, and one expiry exactly when it reaches zero. -/
theorem counter_tickCounter (c d : CounterId) (s : State) :
    (tickCounter c s).counter d = if d = c then s.counter c - 1 else s.counter d := by
  have he : ∀ u : State, (u.expire c).counter d = u.counter d := fun u => by
    rw [expire_eq]; cases d <;> rfl
  simp only [tickCounter]
  split
  · split <;> simp_all
  · split <;> simp only [he, counter_setCounter]

theorem fired_tickCounter (c : CounterId) (s : State) :
    (tickCounter c s).out.fired = s.out.fired ++ if s.counter c = 1 then [c] else [] := by
  have hs : ∀ (u : State) (n : Nat), (u.setCounter c n).out = u.out := fun u n => by
    cases c <;> rfl
  simp only [tickCounter, counter_setCounter, if_true]
  split
  · simp_all
  · split
    · have : s.counter c = 1 := by omega
      rw [expire_eq, if_pos this]; simp only [hs]
    · have : ¬s.counter c = 1 := by omega
      rw [if_neg this]; simp only [hs, List.append_nil]

/-! ### The ring -/

/-- The drainer's body: the byte at `tail` if there is one, then `full` recomputed. -/
theorem drainBody_eq (s : State) :
    drainBody s =
      if s.ctl.head = s.ctl.tail then
        { s with ctl := { s.ctl with full := ringFull s.ctl.head s.ctl.tail } }
      else { s with
        ctl := { s.ctl with tail := s.ctl.tail + 1, full := ringFull s.ctl.head (s.ctl.tail + 1) }
        out := { s.out with console := s.out.console ++ [s.ringRead s.ctl.tail] } } := by
  simp only [drainBody, ringEmpty, decide_eq_true_eq]
  split <;> rfl

/-- One line of an `ENQ` writes the ring, `head`, `full`, `enq` and the response only. -/
theorem enqLines_frame (bytes : List Byte) (k : Nat) (s : State) :
    (enqLines bytes k s).Leaves fun s' => ∃ rb head full enq resp, s' = { s with
      ctl := { s.ctl with rb := rb, head := head, full := full, enq := enq }
      out := { s.out with resp := resp } } := by
  unfold enqLines
  split
  · exact ⟨_, _, _, _, _, rfl⟩
  · split <;> exact ⟨_, _, _, _, _, rfl⟩
  · rename_i c _
    obtain ⟨left, at_, t⟩ := c
    cases at_ <;> cases left <;> simp only [enqStep] <;> (try split) <;> exact ⟨_, _, _, _, _, rfl⟩
  · exact ⟨_, _, _, _, _, rfl⟩
  · exact ⟨_, _, _, _, _, rfl⟩

/-! ### Commands -/

/-- `CLEAR` from line `k` on, not stopped: the slots from `k` to 512 are zero, the others as before, and
nothing but the channel frame and the response changes. -/
theorem clear_run (n : Nat) : ∀ (k : Nat) (s : State), k + n = Config.nSlot →
    ∃ t : State, runLines .cmdClear clearLines (n + 1) none k s = .next t ∧
      (∀ j, t.chanRead j = if k ≤ j ∧ j < Config.nSlot then 0 else s.chanRead j) ∧
      t = { s with
        ctl := { s.ctl with chan := t.ctl.chan }
        out := { s.out with resp := s.out.resp ++ [.ok] } } := by
  induction n with
  | zero =>
    intro k s hk
    have hl : clearLines k s = .ret (s.respond .ok) := if_neg (by omega)
    refine ⟨_, runLines_ret hl, fun j => ?_, rfl⟩
    rw [if_neg (by omega)]
    rfl
  | succ n ih =>
    intro k s hk
    have hl : clearLines k s = .goOn (k + 1) (s.chanWrite k 0) := if_pos (by omega)
    obtain ⟨t, h1, h2, h3⟩ := ih (k + 1) (s.chanWrite k 0) (by omega)
    refine ⟨t, (runLines_goOn hl).trans h1, fun j => ?_, ?_⟩
    · rw [h2, chanRead_chanWrite]
      grind
    · simpa [State.chanWrite] using h3

/-- The words of the next command, as many as its header tells (R99). -/
theorem take_nextLength {d : Draw Word} {h : Word} {payload : List Word}
    (hd : d.take (payload.length + 1) = h :: payload)
    (hl : payload.length + 1 = commandLength h) :
    nextLength d = payload.length + 1 := by
  have hh : d.next.1 = h := (List.cons.inj hd).1
  rw [nextLength, hh, hl]

/-! ### Received characters -/

theorem instr_of_break : RxChar.instr ⟨0, true⟩ = .rxBreak := rfl

theorem instr_of_stray {b : Byte} (h : b ≠ 0) : RxChar.instr ⟨b, true⟩ = .rxStrayFe b := by
  simp [RxChar.instr, RxChar.isBreak, RxChar.isStray, show ¬b = 0#8 from h]

theorem instr_of_data (b : Byte) : RxChar.instr ⟨b, false⟩ = .rxData b := by
  simp [RxChar.instr, RxChar.isBreak, RxChar.isStray]

/-- Each received character is its own operation: executing it runs the lines of its own character. -/
theorem exec_rx (c : RxChar) (s : State) :
    exec c.instr s = perform c.instr (receiveLines c) shortRun s := by
  obtain ⟨b, fe⟩ := c
  cases fe
  · rw [instr_of_data]; rfl
  · by_cases h : b = 0
    · subst h; rfl
    · rw [instr_of_stray h]; rfl

/-- A line of a character at a controller writes the answer only. -/
theorem sampleLines_frame (c : RxChar) (k : Nat) (s : State) :
    (sampleLines c k s).Leaves fun s' => ∃ answer, s' = { s with
      ctl := { s.ctl with answer := answer } } := ⟨_, rfl⟩

/-- A line of a character at a device leaves the controller's state, the line and the responses alone. -/
theorem deviceLines_frame (c : RxChar) (k : Nat) (s : State) :
    (deviceLines c k s).Leaves fun s' => ∃ tmo dev pins duty, s' = { s with
      tmo := tmo, dev := dev, env := { s.env with pins := pins }
      out := { s.out with duty := duty } } := by
  have hset : ∀ (c : CounterId) (n : Nat), ∃ tmo dev pins duty, s.setCounter c n = { s with
      tmo := tmo, dev := dev, env := { s.env with pins := pins }
      out := { s.out with duty := duty } } := fun c n =>
    ⟨_, s.dev, s.env.pins, s.out.duty, by rw [setCounter_eq]⟩
  unfold deviceLines
  split
  all_goals ((try unfold branch); (try unfold deviceCase))
  all_goals (repeat' split) <;> first | exact ⟨_, _, _, _, rfl⟩ | exact hset _ _

end Sys2Proof.Machine
end

