-- ==== Sys2Proof/Laws/PerInstr.lean ====
section
/-! SUPPORT. Statements about every instruction as syntax, one lemma for each constructor: the shape of
its encoding, and the role that has it. -/

namespace Sys2Proof.Laws

/-- The encoding has the instruction's own format (R103) and at least one word. -/
def Shape.Statement (i : Instr) : Prop := (encode i).fmt = i.format ∧ (encode i).words ≠ []

/-- Some role has the instruction (R104), and `roleFor` names one, the present role if it has it. -/
def Roles.Statement (i : Instr) : Prop :=
  ∀ r : Role, i.existsIn (Machine.roleFor i r) = true ∧
    (i.existsIn r = true → Machine.roleFor i r = r)

/-! ### `Shape` -/

theorem Shape.rxBreak : Shape.Statement .rxBreak :=
  ⟨rfl, List.cons_ne_nil _ _⟩

theorem Shape.rxStrayFe (b : Byte) : Shape.Statement (.rxStrayFe b) :=
  ⟨rfl, List.cons_ne_nil _ _⟩

theorem Shape.rxData (b : Byte) : Shape.Statement (.rxData b) :=
  ⟨rfl, List.cons_ne_nil _ _⟩

theorem Shape.scData : Shape.Statement .scData :=
  ⟨rfl, List.cons_ne_nil _ _⟩

theorem Shape.scPoll : Shape.Statement .scPoll :=
  ⟨rfl, List.cons_ne_nil _ _⟩

theorem Shape.scOther (b : Byte) : Shape.Statement (.scOther b) :=
  ⟨rfl, List.cons_ne_nil _ _⟩

theorem Shape.cmdSet (a : Addr) (d : Byte) : Shape.Statement (.cmdSet a d) :=
  ⟨rfl, List.cons_ne_nil _ _⟩

theorem Shape.cmdGet (a : Addr) : Shape.Statement (.cmdGet a) :=
  ⟨rfl, List.cons_ne_nil _ _⟩

theorem Shape.cmdMax (a : Addr) : Shape.Statement (.cmdMax a) :=
  ⟨rfl, List.cons_ne_nil _ _⟩

theorem Shape.cmdOn : Shape.Statement .cmdOn :=
  ⟨rfl, List.cons_ne_nil _ _⟩

theorem Shape.cmdOff : Shape.Statement .cmdOff :=
  ⟨rfl, List.cons_ne_nil _ _⟩

theorem Shape.cmdPoll : Shape.Statement .cmdPoll :=
  ⟨rfl, List.cons_ne_nil _ _⟩

theorem Shape.cmdClear : Shape.Statement .cmdClear :=
  ⟨rfl, List.cons_ne_nil _ _⟩

theorem Shape.cmdEnq (bytes : List Byte) : Shape.Statement (.cmdEnq bytes) :=
  ⟨rfl, List.cons_ne_nil _ _⟩

theorem Shape.sendBreak (sc : Byte) : Shape.Statement (.sendBreak sc) :=
  ⟨rfl, List.cons_ne_nil _ _⟩

theorem Shape.putSlot (b : Byte) : Shape.Statement (.putSlot b) :=
  ⟨rfl, List.cons_ne_nil _ _⟩

theorem Shape.releaseDe : Shape.Statement .releaseDe :=
  ⟨rfl, List.cons_ne_nil _ _⟩

theorem Shape.bareBreak : Shape.Statement .bareBreak :=
  ⟨rfl, List.cons_ne_nil _ _⟩

theorem Shape.dataFrame : Shape.Statement .dataFrame :=
  ⟨rfl, List.cons_ne_nil _ _⟩

theorem Shape.checkpoint : Shape.Statement .checkpoint :=
  ⟨rfl, List.cons_ne_nil _ _⟩

theorem Shape.cycle : Shape.Statement .cycle :=
  ⟨rfl, List.cons_ne_nil _ _⟩

theorem Shape.pollRange (mn : Nat) (mx : Nat) : Shape.Statement (.pollRange mn mx) :=
  ⟨rfl, List.cons_ne_nil _ _⟩

theorem Shape.discover : Shape.Statement .discover :=
  ⟨rfl, List.cons_ne_nil _ _⟩

theorem Shape.fsStep : Shape.Statement .fsStep :=
  ⟨rfl, List.cons_ne_nil _ _⟩

theorem Shape.drainOne : Shape.Statement .drainOne :=
  ⟨rfl, List.cons_ne_nil _ _⟩

theorem Shape.tick : Shape.Statement .tick :=
  ⟨rfl, List.cons_ne_nil _ _⟩

theorem Shape.reset : Shape.Statement .reset :=
  ⟨rfl, List.cons_ne_nil _ _⟩

/-! ### `Roles` -/

theorem Roles.rxBreak : Roles.Statement .rxBreak :=
  fun r => by cases r <;> exact ⟨rfl, by simp [Instr.existsIn, Machine.roleFor]⟩

theorem Roles.rxStrayFe (b : Byte) : Roles.Statement (.rxStrayFe b) :=
  fun r => by cases r <;> exact ⟨rfl, by simp [Instr.existsIn, Machine.roleFor]⟩

theorem Roles.rxData (b : Byte) : Roles.Statement (.rxData b) :=
  fun r => by cases r <;> exact ⟨rfl, by simp [Instr.existsIn, Machine.roleFor]⟩

theorem Roles.scData : Roles.Statement .scData :=
  fun r => by cases r <;> exact ⟨rfl, by simp [Instr.existsIn, Machine.roleFor]⟩

theorem Roles.scPoll : Roles.Statement .scPoll :=
  fun r => by cases r <;> exact ⟨rfl, by simp [Instr.existsIn, Machine.roleFor]⟩

theorem Roles.scOther (b : Byte) : Roles.Statement (.scOther b) :=
  fun r => by cases r <;> exact ⟨rfl, by simp [Instr.existsIn, Machine.roleFor]⟩

theorem Roles.cmdSet (a : Addr) (d : Byte) : Roles.Statement (.cmdSet a d) :=
  fun r => by cases r <;> exact ⟨rfl, by simp [Instr.existsIn, Machine.roleFor]⟩

theorem Roles.cmdGet (a : Addr) : Roles.Statement (.cmdGet a) :=
  fun r => by cases r <;> exact ⟨rfl, by simp [Instr.existsIn, Machine.roleFor]⟩

theorem Roles.cmdMax (a : Addr) : Roles.Statement (.cmdMax a) :=
  fun r => by cases r <;> exact ⟨rfl, by simp [Instr.existsIn, Machine.roleFor]⟩

theorem Roles.cmdOn : Roles.Statement .cmdOn :=
  fun r => by cases r <;> exact ⟨rfl, by simp [Instr.existsIn, Machine.roleFor]⟩

theorem Roles.cmdOff : Roles.Statement .cmdOff :=
  fun r => by cases r <;> exact ⟨rfl, by simp [Instr.existsIn, Machine.roleFor]⟩

theorem Roles.cmdPoll : Roles.Statement .cmdPoll :=
  fun r => by cases r <;> exact ⟨rfl, by simp [Instr.existsIn, Machine.roleFor]⟩

theorem Roles.cmdClear : Roles.Statement .cmdClear :=
  fun r => by cases r <;> exact ⟨rfl, by simp [Instr.existsIn, Machine.roleFor]⟩

theorem Roles.cmdEnq (bytes : List Byte) : Roles.Statement (.cmdEnq bytes) :=
  fun r => by cases r <;> exact ⟨rfl, by simp [Instr.existsIn, Machine.roleFor]⟩

theorem Roles.sendBreak (sc : Byte) : Roles.Statement (.sendBreak sc) :=
  fun r => by cases r <;> exact ⟨rfl, by simp [Instr.existsIn, Machine.roleFor]⟩

theorem Roles.putSlot (b : Byte) : Roles.Statement (.putSlot b) :=
  fun r => by cases r <;> exact ⟨rfl, by simp [Instr.existsIn, Machine.roleFor]⟩

theorem Roles.releaseDe : Roles.Statement .releaseDe :=
  fun r => by cases r <;> exact ⟨rfl, by simp [Instr.existsIn, Machine.roleFor]⟩

theorem Roles.bareBreak : Roles.Statement .bareBreak :=
  fun r => by cases r <;> exact ⟨rfl, by simp [Instr.existsIn, Machine.roleFor]⟩

theorem Roles.dataFrame : Roles.Statement .dataFrame :=
  fun r => by cases r <;> exact ⟨rfl, by simp [Instr.existsIn, Machine.roleFor]⟩

theorem Roles.checkpoint : Roles.Statement .checkpoint :=
  fun r => by cases r <;> exact ⟨rfl, by simp [Instr.existsIn, Machine.roleFor]⟩

theorem Roles.cycle : Roles.Statement .cycle :=
  fun r => by cases r <;> exact ⟨rfl, by simp [Instr.existsIn, Machine.roleFor]⟩

theorem Roles.pollRange (mn : Nat) (mx : Nat) : Roles.Statement (.pollRange mn mx) :=
  fun r => by cases r <;> exact ⟨rfl, by simp [Instr.existsIn, Machine.roleFor]⟩

theorem Roles.discover : Roles.Statement .discover :=
  fun r => by cases r <;> exact ⟨rfl, by simp [Instr.existsIn, Machine.roleFor]⟩

theorem Roles.fsStep : Roles.Statement .fsStep :=
  fun r => by cases r <;> exact ⟨rfl, by simp [Instr.existsIn, Machine.roleFor]⟩

theorem Roles.drainOne : Roles.Statement .drainOne :=
  fun r => by cases r <;> exact ⟨rfl, by simp [Instr.existsIn, Machine.roleFor]⟩

theorem Roles.tick : Roles.Statement .tick :=
  fun r => by cases r <;> exact ⟨rfl, by simp [Instr.existsIn, Machine.roleFor]⟩

theorem Roles.reset : Roles.Statement .reset :=
  fun r => by cases r <;> exact ⟨rfl, by simp [Instr.existsIn, Machine.roleFor]⟩

end Sys2Proof.Laws
end

