-- ==== Sys2Proof/Laws/Step.lean ====
section
/-! SUPPORT. What a step boundary can lead to (spec 60_exceptions.md R304, R305), said once. -/

namespace Sys2Proof.Machine

/-- What `fetch` finds: reset, if the environment applies it; else the handler of a pending request; else
the main loop's operation. -/
theorem fetch_cases (s : State) :
    s.drawEvent.1.reset = true ∧ fetch s = .run .reset s.drawEvent.2 ∨
    s.drawEvent.1.reset = false ∧
      ((∃ i, (i = .tick ∧ (s.drawEvent.2.raise s.drawEvent.1).pendTick = true ∨
          i = .drainOne ∧ (s.drawEvent.2.raise s.drawEvent.1).ctl.pendDrain = true) ∧
          fetch s = .run i (s.drawEvent.2.raise s.drawEvent.1)) ∨
        (s.drawEvent.2.raise s.drawEvent.1).pendTick = false ∧
          (s.drawEvent.2.raise s.drawEvent.1).ctl.pendDrain = false ∧
          fetch s = fetchMain (s.drawEvent.2.raise s.drawEvent.1)) := by
  cases hr : s.drawEvent.1.reset
  · refine .inr ⟨rfl, ?_⟩
    rcases hh : (s.drawEvent.2.raise s.drawEvent.1).handler s.drawEvent.1 with _ | i
    · obtain ⟨h1, h2⟩ := handler_eq_none.1 hh
      exact .inr ⟨h1, h2, by simp only [fetch, hr, hh]; rfl⟩
    · exact .inl ⟨i, handler_eq_some hh, by simp only [fetch, hr, hh]; rfl⟩
  · exact .inl ⟨rfl, by simp only [fetch, hr, if_true]⟩

/-- The operation called last, or the loop of the role, at the line that is next. -/
theorem fetchMain_cases (s : State) :
    s.ops = [] ∧ fetchMain s = .run (loopInstr s) s ∨
    ∃ c later, s.ops = c :: later ∧
      ((∃ i, decode c.image = .ok i ∧
          fetchMain s = .run i { s with ops := later, line := c.line }) ∨
        (∃ e, decode c.image = .error e) ∧
          fetchMain s = if c.image.fmt = .cmd then .illegal { s with ops := later } else .nothing) := by
  rcases ho : s.ops with _ | ⟨c, later⟩
  · exact .inl ⟨rfl, by simp only [fetchMain, ho]⟩
  · refine .inr ⟨c, later, rfl, ?_⟩
    rcases hd : decode c.image with e | i
    · exact .inr ⟨⟨e, rfl⟩, by simp only [fetchMain, ho, hd]⟩
    · exact .inl ⟨i, rfl, by simp only [fetchMain, ho, hd]⟩

end Sys2Proof.Machine
end

