-- ==== Sys2Proof/Tests/Slice0.lean ====
section
/-! SUPPORT. The model's own tests, each on fixed values and by evaluation. Expected results come from
the spec: its encodings (30_encoding.md), its worked vectors (95_test_vectors.md, named by their labels
F, X, K, Q, D, S, B, T, Z) or a rule worked by hand. Last come the witnesses: for each obligation with
hypotheses, a concrete state and operands that meet them. -/

namespace Sys2Proof.Tests

open Sys2Proof.Machine

/-! ### Helpers -/

/-- The parameters of the vectors (program P2's choice, with `P_MAX_AT_RESET = 512`). -/
def par (r : Role) : Params :=
  ⟨r, 3, 2, .green, .keep, .keep, .turnOff, 512, false⟩

/-- A controller after reset on a quiet line. -/
def ctl : State := State.resetWith (par .controller) Env.quiet Outputs.none 0

/-- A device after reset on a quiet line. -/
def dev : State := State.resetWith (par .device) Env.quiet Outputs.none 0

/-- What `f` reads in the next state, if there is one. -/
def got {α : Type} (r : Result) (f : State → α) : Option α :=
  match r with
  | .next t => some (f t)
  | _ => none

/-- A controller whose sequencer stands at `p`, about to execute an operation from its line `k`. -/
def ctlAt (p : SeqPos) (k : Nat) : State := { ctl.goto p with line := k }

/-- A device with address 3 (pins 0x1FD). -/
def dev3 (f : FsState) (slot : Addr) : State :=
  { dev with
    dev := { dev.dev with fs := f, slot := slot }
    env := { dev.env with pins := ⟨[], 0x1FD, []⟩ } }

/-- A controller whose host presents a command at the next checkpoint. -/
def presenting (ws : List Word) : State :=
  { ctl with env := { ctl.env with present := ⟨[true], false, []⟩, cmd := ⟨ws, 0, []⟩ } }

/-- A controller's ring. -/
def ring (head tail : Byte) (full : Bool) (rb : Memory 8) : State :=
  { ctl with ctl := { ctl.ctl with head := head, tail := tail, full := full, rb := rb } }

/-- The state in which the environment does `e` at the next step boundary. -/
def next (s : State) (e : Event) : State :=
  { s with env := { s.env with events := ⟨[e], Event.quiet, []⟩ } }

/-- A tick request. -/
def tickEvent : Event := ⟨true, false, true, false⟩

/-- A drain request. -/
def drainEvent : Event := ⟨false, true, true, false⟩

/-- A power-on reset. -/
def resetEvent : Event := ⟨false, false, true, true⟩

/-- The state in which the operation executed next starts at line `k` and stops after that line. -/
def only (s : State) (k : Nat) : State := { s.withCut (some 0) with line := k }

/-- The operation `i` with line `k` next. -/
def call (i : Instr) (k : Nat) : Call := ⟨encode i, k⟩

/-- A state whose operation starts at line `k`, with given answers of `txReady` and `txEmpty` first. -/
def waitsAt (s : State) (k : Nat) (ready empty : List Bool) : State :=
  { s with line := k, env := { s.env with txReady := ⟨ready, true, []⟩, txEmpty := ⟨empty, true, []⟩ } }

/-! ### Well-formedness refuses an ill-formed term at each check -/

theorem test_wf_stray_zero : WellFormed (.rxStrayFe 0) = false := by decide
theorem test_wf_other_data : WellFormed (.scOther 0x00) = false := by decide
theorem test_wf_other_poll : WellFormed (.scOther 0xF0) = false := by decide
theorem test_wf_enq_length : WellFormed (.cmdEnq (List.replicate 1024 0)) = false := by decide +kernel
theorem test_wf_send_break : WellFormed (.sendBreak 0x01) = false := by decide
theorem test_wf_range_zero : WellFormed (.pollRange 0 5) = false := by decide
theorem test_wf_range_order : WellFormed (.pollRange 5 4) = false := by decide

/-- R9: the range bounds are unbounded, and a called poll keeps them. -/
theorem test_range_unbounded : WellFormed (.pollRange 1 (2 ^ 32)) = true ∧
    decode (encode (.pollRange 1 (2 ^ 32))) = .ok (.pollRange 1 (2 ^ 32)) := by decide +kernel

/-! ### Decoding: words written out from 30_encoding.md -/

/-- X1 to X7 (R92). -/
theorem test_decode_rxchar :
    decode ⟨.rxchar, [0x100], []⟩ = .ok .rxBreak ∧ decode ⟨.rxchar, [0x101], []⟩ = .ok (.rxStrayFe 0x01) ∧
    decode ⟨.rxchar, [0x1FF], []⟩ = .ok (.rxStrayFe 0xFF) ∧ decode ⟨.rxchar, [0x000], []⟩ = .ok (.rxData 0) ∧
    decode ⟨.rxchar, [0x02A], []⟩ = .ok (.rxData 42) ∧ decode ⟨.rxchar, [0x0FF], []⟩ = .ok (.rxData 255) := by
  decide

/-- R94. -/
theorem test_decode_sc :
    decode ⟨.sc, [0x00], []⟩ = .ok .scData ∧ decode ⟨.sc, [0xF0], []⟩ = .ok .scPoll ∧
    decode ⟨.sc, [0xCC], []⟩ = .ok (.scOther 0xCC) ∧ decode ⟨.sc, [0x01], []⟩ = .ok (.scOther 0x01) := by
  decide

/-- K2, K8, K11, K14, K17, K18, K19 and the range ends of K3 and K5 (R98). -/
theorem test_decode_cmd :
    decode ⟨.cmd, [0x120000FF], []⟩ = .ok (.cmdSet 512 255) ∧ decode ⟨.cmd, [0x10000005], []⟩ = .ok (.cmdSet 0 5) ∧
    decode ⟨.cmd, [0x13FF0000], []⟩ = .ok (.cmdSet 1023 0) ∧ decode ⟨.cmd, [0x20010000], []⟩ = .ok (.cmdGet 1) ∧
    decode ⟨.cmd, [0x32000000], []⟩ = .ok (.cmdMax 512) ∧ decode ⟨.cmd, [0x40000000], []⟩ = .ok .cmdOn ∧
    decode ⟨.cmd, [0x50000000], []⟩ = .ok .cmdOff ∧ decode ⟨.cmd, [0x60000000], []⟩ = .ok .cmdPoll ∧
    decode ⟨.cmd, [0x70000000], []⟩ = .ok .cmdClear := by
  decide

/-- K20 to K22 (R99). -/
theorem test_decode_enq :
    decode ⟨.cmd, [0x80000000], []⟩ = .ok (.cmdEnq []) ∧
    decode ⟨.cmd, [0x80020000, 0x00006B6F], []⟩ = .ok (.cmdEnq [0x6F, 0x6B]) ∧
    decode ⟨.cmd, [0x80050000, 0x6C6C6568, 0x0000006F], []⟩ =
      .ok (.cmdEnq [0x68, 0x65, 0x6C, 0x6C, 0x6F]) ∧
    decode ⟨.cmd, [0x80010000, 0xFFFFFF78], []⟩ = .ok (.cmdEnq [0x78]) := by
  decide

/-- K6, K7, K9, K15, K16, K23 to K26 and a missing payload word (R99, R100). -/
theorem test_decode_illegal :
    decode ⟨.cmd, [0x14010000], []⟩ = .error .reservedField ∧
    decode ⟨.cmd, [0x10010100], []⟩ = .error .reservedField ∧
    decode ⟨.cmd, [0x20010001], []⟩ = .error .unusedField ∧
    decode ⟨.cmd, [0x40010000], []⟩ = .error .unusedField ∧
    decode ⟨.cmd, [0x40000001], []⟩ = .error .unusedField ∧
    decode ⟨.cmd, [0x80010001, 0x00000041], []⟩ = .error .unusedField ∧
    decode ⟨.cmd, [0x00000000], []⟩ = .error .reservedOp ∧ decode ⟨.cmd, [0x9005000A], []⟩ = .error .reservedOp ∧
    decode ⟨.cmd, [0xF0000000], []⟩ = .error .reservedOp ∧ decode ⟨.cmd, [0x80050000, 0], []⟩ = .error .wordCount := by
  decide

/-- The step codes of R102, the operands beside them (log 9). -/
theorem test_decode_seq :
    decode ⟨.seq, [0x01], [0xF0]⟩ = .ok (.sendBreak 0xF0) ∧ decode ⟨.seq, [0x02], [0x7F]⟩ = .ok (.putSlot 0x7F) ∧
    decode ⟨.seq, [0x03], []⟩ = .ok .releaseDe ∧ decode ⟨.seq, [0x04], []⟩ = .ok .bareBreak ∧
    decode ⟨.seq, [0x05], []⟩ = .ok .dataFrame ∧ decode ⟨.seq, [0x06], []⟩ = .ok .checkpoint ∧
    decode ⟨.seq, [0x07], []⟩ = .ok .cycle ∧ decode ⟨.seq, [0x08], [5, 8]⟩ = .ok (.pollRange 5 8) ∧
    decode ⟨.seq, [0x09], []⟩ = .ok .discover ∧ decode ⟨.seq, [0x0A], []⟩ = .ok .fsStep ∧
    decode ⟨.seq, [0x0B], []⟩ = .ok .drainOne ∧ decode ⟨.seq, [0x0C], []⟩ = .ok .tick ∧
    decode ⟨.seq, [0x0D], []⟩ = .ok .reset := by
  decide

/-- The unassigned codes of R102 and images that are too wide, too long or empty. -/
theorem test_decode_rejects :
    decode ⟨.seq, [0x00], []⟩ = .error .unassignedCode ∧ decode ⟨.seq, [0x0E], []⟩ = .error .unassignedCode ∧
    decode ⟨.seq, [0xFF], []⟩ = .error .unassignedCode ∧ decode ⟨.seq, [0x100], []⟩ = .error .tooWide ∧
    decode ⟨.rxchar, [0x200], []⟩ = .error .tooWide ∧ decode ⟨.sc, [0x100], []⟩ = .error .tooWide ∧
    decode ⟨.sc, [0, 0], []⟩ = .error .wordCount ∧ decode ⟨.seq, [], []⟩ = .error .emptyImage := by
  decide

/-- The encoder gives the words of the spec's vectors (K2, K22, X3). -/
theorem test_encode :
    encode (.cmdSet 512 255) = ⟨.cmd, [0x120000FF], []⟩ ∧
    encode (.cmdEnq [0x68, 0x65, 0x6C, 0x6C, 0x6F]) = ⟨.cmd, [0x80050000, 0x6C6C6568, 0x0000006F], []⟩ ∧
    encode (.rxStrayFe 0x80) = ⟨.rxchar, [0x180], []⟩ := by
  decide

/-- The opcode table's view: one word of every row, of as many whole bytes as the table gives it. -/
def tableRows : List (Nat × Nat × Instr) :=
  [(16, 0x100, .rxBreak), (16, 0x180, .rxStrayFe 0x80), (16, 0x02A, .rxData 0x2A), (8, 0x00, .scData),
    (8, 0xF0, .scPoll), (8, 0xCC, .scOther 0xCC), (32, 0x1005000A, .cmdSet 5 10),
    (32, 0x20050000, .cmdGet 5), (32, 0x30020000, .cmdMax 2)] ++
  [(32, 0x40000000, .cmdOn), (32, 0x50000000, .cmdOff), (32, 0x60000000, .cmdPoll),
    (32, 0x70000000, .cmdClear), (32, 0x80020000, .cmdEnq [0, 0]), (8, 0x01, .sendBreak 0),
    (8, 0x02, .putSlot 0), (8, 0x03, .releaseDe), (8, 0x04, .bareBreak), (8, 0x05, .dataFrame)] ++
  [(8, 0x06, .checkpoint), (8, 0x07, .cycle), (8, 0x08, .pollRange 0 0), (8, 0x09, .discover),
    (8, 0x0A, .fsStep), (8, 0x0B, .drainOne), (8, 0x0C, .tick), (8, 0x0D, .reset)]

theorem test_table_words_decode :
    (tableRows.all fun r => decide (decodeTableWord r.1 r.2.1 = some r.2.2)) = true := by decide +kernel

/-- Each runs as the first instruction after reset and takes a next state. -/
theorem test_table_words_run :
    (tableRows.all fun r =>
      (got (step (State.reset.withFetchWord r.1 r.2.1)) fun _ => ()).isSome) = true := by decide +kernel

/-! ### The framer -/

/-- F1. -/
theorem test_send_break : got (exec (.sendBreak 0x00) ctl) (fun t => (t.out.wire, t.de, t.baud)) =
    some ([.de true, .brk, .byte 0x00], true, .nominal) := by decide +kernel

/-- F9: the receiver never idle. -/
theorem test_send_break_holds :
    got (exec (.sendBreak 0x00) { ctl with env := { ctl.env with rxIdle := ⟨[], false, []⟩ } })
      (fun t => (t.out.wire, t.de, t.ops)) = some ([], false, [⟨⟨.seq, [0x01], [0x00]⟩, 0⟩]) := by
  decide +kernel

/-- F4. -/
theorem test_put_slot : got (exec (.putSlot 0x00) { ctl with de := true }) (fun t => (t.out.wire, t.de)) =
    some ([.byte 0x00], true) := by decide +kernel

/-- F6 and F7. -/
theorem test_release_de :
    got (exec .releaseDe { ctl with de := true }) (fun t => (t.out.wire, t.de)) = some ([.de false], false) ∧
    got (exec .releaseDe ctl) (fun t => (t.out.wire, t.de)) = some ([], false) := by decide +kernel

/-- F8. -/
theorem test_bare_break : got (exec .bareBreak dev) (fun t => (t.out.wire, t.de, t.baud)) =
    some ([.de true, .brk, .de false], false, .nominal) := by decide +kernel

/-- R12: `UartPut` blocks while the transmitter, busy with a Break that a reset abandoned, cannot accept. -/
theorem test_uart_put_blocks :
    got (exec .bareBreak (waitsAt dev 0 [false] [])) (fun t => (t.out.wire, t.baud, t.ops)) =
      some ([.de true], .slow, [call .bareBreak 2]) := by decide +kernel

/-! ### Steps, interrupts and reset between two lines (R305, R340) -/

/-- R340: reset between `DE(1)` and `BRK` abandons `SEND_BREAK`: the wire has `DE(1)` alone. -/
theorem test_reset_between_lines :
    (got (exec (.sendBreak 0x00) (ctl.withCut (some 2))) fun t =>
      got (step (next t resetEvent)) fun u => (u.out.wire, u.de, u.baud, u.ops)) =
      some (some ([.de true], false, .nominal, [])) := by decide +kernel

/-- T5: a tick between the arming of `SC_DATA` and its test, and one after the test. -/
theorem test_tick_between_lines :
    (got (exec .scData { dev3 .awaitSC 0 with
      tmo := ⟨0, 1, 0⟩, env := { dev.env with cut := ⟨[some 2], none, []⟩ } }) fun t =>
      got (step (next t tickEvent)) fun u =>
        got (step u) fun v => (v.tmo, v.dev.actLed)) = some (some (some (⟨0, 0, 2⟩, true))) ∧
    (got (exec .scData { dev3 .awaitSC 0 with
      tmo := ⟨0, 1, 0⟩, env := { dev.env with cut := ⟨[some 3], none, []⟩ } }) fun t =>
      (t.ops, t.dev.actLed)) = some ([], false) := by decide +kernel

/-! ### Received characters at a device -/

/-- S1, S17: a Break in `Idle` and in `Synced`. -/
theorem test_rx_break :
    got (exec .rxBreak (dev3 .idle 0)) (fun t => (t.dev.fs, t.dev.pollAddr)) = some (.awaitSC, 3) ∧
    got (exec .rxBreak (dev3 .synced 7)) (fun t => (t.dev.fs, t.dev.slot)) = some (.awaitSC, 7) := by
  decide +kernel

/-- S16: a stray character in `Synced`. -/
theorem test_rx_stray :
    got (exec (.rxStrayFe 0x80) (dev3 .synced 3)) (fun t => (t.dev.fs, t.dev.slot, t.dev.devVal, t.tmo)) =
      some (.synced, 3, 0, ⟨0, 0, 0⟩) := by decide +kernel

/-- S12: the own slot with a new value. -/
theorem test_rx_own_slot :
    got (exec (.rxData 0x44) (dev3 .synced 3))
      (fun t => (t.tmo.green, t.dev.devVal, t.dev.duty, t.out.duty, t.dev.slot)) =
      some (2, 0x44, 0x44, [0x44], 4) := by decide +kernel

/-- S14, S15: the wrap of the slot counter. -/
theorem test_rx_slot_wrap :
    got (exec (.rxData 0x10) (dev3 .synced 512)) (fun t => t.dev.slot) = some 0 ∧
    got (exec (.rxData 0x10) (dev3 .synced 0)) (fun t => (t.dev.slot, t.out.duty)) = some (1, []) := by
  decide +kernel

/-- S6: a second Break is the start code 0x00. -/
theorem test_rx_break_as_start_code :
    (got (exec .rxBreak (dev3 .awaitSC 0)) fun t =>
      got (step t) fun u => (u.dev.fs, u.dev.slot, u.tmo.noData, u.dev.actLed)) =
      some (some (.synced, 1, 3, true)) := by decide +kernel

/-- S8, S9: the framing error of a start code is not examined. -/
theorem test_rx_other_start_codes :
    got (exec (.rxStrayFe 0xF0) (dev3 .awaitSC 0)) (fun t => t.ops) = some [⟨⟨.sc, [0xF0], []⟩, 0⟩] ∧
    got (exec (.rxData 0xCC) (dev3 .awaitSC 0)) (fun t => t.ops) = some [⟨⟨.sc, [0xCC], []⟩, 0⟩] := by
  decide +kernel

/-- S5: the change window is open, so the indicator is not forced. -/
theorem test_sc_data :
    got (exec .scData { dev3 .awaitSC 0 with tmo := ⟨0, 4, 0⟩ })
      (fun t => (t.dev.fs, t.dev.slot, t.tmo.noData, t.dev.actLed)) = some (.synced, 1, 3, false) := by
  decide +kernel

/-- S7. -/
theorem test_sc_poll :
    got (exec .scPoll { dev3 .awaitSC 0 with dev := { dev.dev with pollIdx := 9, pollCap := 5 } })
      (fun t => (t.dev.fs, t.dev.pollIdx, t.dev.pollCap)) = some (.pollRead, 1, 0) := by decide +kernel

/-- S10. -/
theorem test_sc_other : got (exec (.scOther 0x01) (dev3 .awaitSC 0)) (fun t => t.dev.fs) = some .idle := by
  decide +kernel

/-- S18, S22: a position of a poll frame, and the last one, which calls the response. -/
theorem test_poll_read :
    got (exec (.rxData 0x01) { dev3 .pollRead 0 with dev := { (dev3 .pollRead 0).dev with
      pollIdx := 3, pollAddr := 3 } }) (fun t => (t.dev.pollCap, t.dev.pollIdx)) = some (0x01, 4) ∧
    got (exec (.rxData 0x07) { dev3 .pollRead 0 with dev := { (dev3 .pollRead 0).dev with
      pollIdx := 512, pollAddr := 512 } }) (fun t => (t.dev.pollCap, t.dev.fs, t.ops)) =
      some (0x07, .idle, [⟨⟨.seq, [0x04], []⟩, 0⟩]) := by decide +kernel

/-- R46's table: address 5 from pins 0x1FB, 256 from 0x100, 512 from 0x000. -/
theorem test_device_address :
    deviceAddress 0x1FB = 5 ∧ deviceAddress 0x100 = 256 ∧ deviceAddress 0x000 = 512 := by decide

/-- A device with a character waiting. -/
def devRx (c : RxChar) : State :=
  { dev3 .idle 0 with env := { (dev3 .idle 0).env with rx := ⟨[some c], none, []⟩ } }

/-- R230: nothing received leaves the device as it is; a received Break does what S1 says. -/
theorem test_fs_step :
    got (exec .fsStep (dev3 .idle 0)) (fun t => t.dev) = some (dev3 .idle 0).dev ∧
    (got (exec .fsStep (devRx ⟨0, true⟩)) fun t => got (step t) fun u => u.dev.fs) =
      some (some .awaitSC) := by decide +kernel

/-! ### Host commands -/

/-- K2 and K4. -/
theorem test_set :
    got (exec (.cmdSet 512 255) ctl) (fun t => (t.chanRead 512, t.out.resp)) = some (255, [.ok]) ∧
    got (exec (.cmdSet 513 1) ctl) (fun t => (t.ctl.chan, t.out.resp)) = some ([], [.err]) := by
  decide +kernel

/-- Writing what an unlisted slot reads as keeps the memory's one form (R47, R160). -/
theorem test_set_zero :
    got (exec (.cmdSet 5 0) (ctl.chanWrite 5 10)) (fun t => t.ctl.chan) = some [] := by decide +kernel

/-- W1 and K10. -/
theorem test_get :
    got (exec (.cmdGet 5) (ctl.chanWrite 5 10)) (fun t => t.out.resp) = some [.val 10] ∧
    got (exec (.cmdGet 0) ctl) (fun t => t.out.resp) = some [.err] := by decide +kernel

/-- K12 and K13. -/
theorem test_max :
    got (exec (.cmdMax 1) ctl) (fun t => (t.ctl.maxDmxAddr, t.out.resp)) = some (1, [.ok]) ∧
    got (exec (.cmdMax 0) ctl) (fun t => (t.ctl.maxDmxAddr, t.out.resp)) = some (512, [.err]) := by
  decide +kernel

/-- K14. -/
theorem test_on : got (exec .cmdOn ctl) (fun t => (t.ctl.outEn, t.out.resp)) = some (true, [.ok]) := by
  decide +kernel

/-- K17: `de` is not changed. -/
theorem test_off :
    got (exec .cmdOff { ctl with de := true, ctl := { ctl.ctl with outEn := true } })
      (fun t => (t.ctl.outEn, t.de, t.out.resp)) = some (false, true, [.ok]) := by decide +kernel

/-- K18: no response now. -/
theorem test_poll : got (exec .cmdPoll ctl) (fun t => (t.ctl.discPending, t.out.resp)) = some (true, []) := by
  decide +kernel

/-- W2. -/
theorem test_clear :
    got (exec .cmdClear ((ctl.chanWrite 9 0xAA).chanWrite 512 1)) (fun t => (t.ctl.chan, t.out.resp)) =
      some ([], [.ok]) := by decide +kernel

/-- An illegal command answers `ERR` (K23). -/
theorem test_illegal_command :
    got (step { ctl with ops := [⟨⟨.cmd, [0x80010001, 0x00000041], []⟩, 0⟩] })
      (fun t => (t.out.resp, t.ctl.head, t.ops)) = some ([.err], 0, []) := by decide +kernel

/-- R151, R99: the header tells how many words the command has; the rest stays. -/
theorem test_checkpoint :
    got (exec .checkpoint (presenting [0x80020000, 0x00006B6F, 0x60000000])) (fun t => (t.ops, t.env.cmd)) =
      some ([⟨⟨.cmd, [0x80020000, 0x00006B6F], []⟩, 0⟩], ⟨[0x60000000], 0, []⟩) := by decide +kernel

/-! ### The ring -/

/-- K22. -/
theorem test_enq :
    got (exec (.cmdEnq [0x68, 0x65, 0x6C, 0x6C, 0x6F]) ctl)
      (fun t => (t.ctl.rb, t.ctl.head, t.ctl.full, t.out.resp)) =
      some ([(0, 0x68), (1, 0x65), (2, 0x6C), (3, 0x6C), (4, 0x6F)], 5, false, [.ok]) := by decide +kernel

/-- B5: the drop at full. -/
theorem test_enq_drops :
    got (exec (.cmdEnq [0x79, 0x7A]) (ring 0 2 false [])) (fun t => (t.ctl.rb, t.ctl.head, t.ctl.full)) =
      some ([(0, 0x79)], 1, true) := by decide +kernel

/-- A controller with an `ENQ` call at a numbered step, which alone is executed. -/
def enqAt (full : Bool) (a : EnqAt) (left : List Byte) (k : Nat) : State :=
  only { ring 3 1 full [(1, 0x61), (2, 0x62)] with
    ctl := { (ring 3 1 full [(1, 0x61), (2, 0x62)]).ctl with enq := some ⟨left, a, 0⟩ } } k

/-- B6: E5 after a drain computes `full` from the old `tail`. -/
theorem test_enq_stale_full :
    got (exec (.cmdEnq [0xAA]) { ring 255 1 false [] with
      line := 2, ctl := { (ring 255 1 false []).ctl with enq := some ⟨[0xAA], .e5, 0⟩ } })
      (fun t => (t.ctl.head, t.ctl.tail, t.ctl.full, t.ctl.enq)) = some (255, 1, true, none) := by
  decide +kernel

/-- B3 and B2. -/
theorem test_drain_one :
    got (exec .drainOne (ring 255 0 true [(0, 0x61)])) (fun t => (t.out.console, t.ctl.tail, t.ctl.full)) =
      some ([0x61], 1, false) ∧
    got (exec .drainOne (ring 0 0 false [])) (fun t => (t.out.console, t.ctl.tail, t.ctl.full)) =
      some ([], 0, false) := by decide +kernel

/-! ### The sequencer and discovery -/

/-- Q5: slot 2 is read when it is sent, after the checkpoint that follows slot 1. -/
theorem test_data_frame :
    got (exec .dataFrame ((ctlAt (.frame 1) 5).chanWrite 2 0x55)) (fun t => (t.ops, t.ctl.seq)) =
      some ([⟨⟨.seq, [0x02], [0x55]⟩, 0⟩, ⟨⟨.seq, [0x05], []⟩, 4⟩], .frame 2) := by decide +kernel

/-- Q3: `MAX 2` after slot 3 ends the frame. -/
theorem test_data_frame_ends :
    got (exec .dataFrame { ctlAt (.frame 3) 5 with ctl := { (ctlAt (.frame 3) 5).ctl with maxDmxAddr := 2 } })
      (fun t => (t.ops, t.ctl.seq)) = some ([], .boundary) := by decide +kernel

/-- Q7: at the boundary test the run starts and `discPending` is cleared. -/
theorem test_cycle_discovers :
    got (exec .cycle { ctlAt .boundary 1 with
      ctl := { (ctlAt .boundary 1).ctl with discPending := true, outEn := true } })
      (fun t => (t.ops, t.ctl.discPending)) =
      some ([⟨⟨.seq, [0x09], []⟩, 0⟩, ⟨⟨.seq, [0x07], []⟩, 4⟩], false) := by decide +kernel

/-- D2's report, then a frame if the output is on (R152). -/
theorem test_cycle_reports :
    got (exec .cycle { ctlAt .boundary 4 with
      ctl := { (ctlAt .boundary 4).ctl with dl := [(0, 5)], dlCount := 1, outEn := true } })
      (fun t => (t.out.resp, t.ops)) =
      some ([.disc [5] false], [⟨⟨.seq, [0x05], []⟩, 0⟩, ⟨⟨.seq, [0x07], []⟩, 0⟩]) := by decide +kernel

/-- The flags of (5, 8) and of (1, 512) with 5 discovered (§2.3). -/
theorem test_poll_flags :
    ctl.pollFlag 5 8 4 = 0 ∧ ctl.pollFlag 5 8 5 = 1 ∧ ctl.pollFlag 5 8 8 = 1 ∧ ctl.pollFlag 5 8 9 = 0 ∧
    State.pollFlag { ctl with ctl := { ctl.ctl with dl := [(0, 5)], dlCount := 1 } } 1 512 5 = 0 := by decide

/-- A poll's preamble, and its last flag, after which the bus is released. -/
theorem test_poll_range :
    got (exec (.pollRange 1 4) ctl) (fun t => (t.ops, t.ctl.seq)) =
      some ([⟨⟨.seq, [0x01], [0xF0]⟩, 0⟩, ⟨⟨.seq, [0x08], [1, 4]⟩, 1⟩], .poll 1 4 .brk) ∧
    got (exec (.pollRange 1 4) (ctlAt (.poll 1 4 (.bitmap 512)) 3)) (fun t => (t.ops, t.ctl.seq)) =
      some ([⟨⟨.seq, [0x03], []⟩, 0⟩, ⟨⟨.seq, [0x08], [1, 4]⟩, 5⟩], .poll 1 4 .release) := by decide +kernel

/-- §2.3: a Break among the samples answers the poll, a stray character does not; 60 samples with nothing
answer false. -/
theorem test_poll_window :
    (got (exec .rxBreak { ctlAt (.poll 1 4 (.window 4)) 0 with ops := [call (.pollRange 1 4) 7] }) fun t =>
      got (step t) fun u => (u.ops, u.ctl.answer)) = some (some ([], true)) ∧
    got (exec (.rxStrayFe 0x80) (ctlAt (.poll 1 4 (.window 4)) 0)) (fun t => t.ctl.answer) = some false ∧
    got (exec (.pollRange 1 4) (ctlAt (.poll 1 4 .release) 5)) (fun t => (t.ops, t.ctl.answer, t.ctl.seq)) =
      some ([], false, .poll 1 4 (.window 60)) := by decide +kernel

/-- A controller at the inner loop of `DISCOVER`, the poll of (`mn`, `mx`) having returned `r`. -/
def answered (mn mx : Nat) (r : Bool) (dlCount : Nat) : State :=
  { ctlAt (.poll mn mx (.window 1)) 7 with
    ctl := { (ctlAt (.poll mn mx (.window 1)) 7).ctl with answer := r, dlCount := dlCount } }

/-- §2.3's range updates: (257,512) true gives (257,384), (257,512) false gives (513,768), which is not
polled: the `while` test is next (D8). -/
theorem test_discover_ranges :
    got (exec .discover (answered 257 512 true 0)) (fun t => t.ctl.seq) = some (.disc .inner 257 384) ∧
    got (exec .discover (answered 257 512 false 0)) (fun t => (t.ctl.seq, t.ops)) =
      some (.disc .outer 1 512, [⟨⟨.seq, [0x08], [1, 512]⟩, 0⟩, ⟨⟨.seq, [0x09], []⟩, 3⟩]) := by decide +kernel

/-- D9: the 11th address ends the run. -/
theorem test_discover_overflow :
    got (exec .discover (answered 11 11 true 10)) (fun t => (t.ctl.dlOverflow, t.ctl.dlCount, t.ops)) =
      some (true, 10, []) := by decide +kernel

/-! ### Tick and reset -/

/-- T1. -/
theorem test_tick :
    got (exec .tick { ctl with tmo := ⟨2, 0, 1⟩ }) (fun t => (t.tmo, t.out.fired)) =
      some (⟨1, 0, 0⟩, [.noData]) := by decide +kernel

/-- T3. -/
theorem test_tick_expires :
    got (exec .tick { dev with tmo := ⟨0, 0, 1⟩, dev := { dev.dev with actLed := true } })
      (fun t => t.dev.actLed) = some false := by decide +kernel

/-- Z3, and that a reset keeps what was received for later (R340). -/
theorem test_reset :
    got (exec .reset { dev3 .synced 7 with de := true, tmo := ⟨1, 2, 3⟩ })
      (fun t => (t.dev.fs, t.de, t.tmo, t.env.pins)) =
      some (.idle, false, ⟨0, 0, 0⟩, ⟨[], 0x1FD, []⟩) := by decide +kernel

/-- R301: role Device has no drain request. -/
theorem test_device_has_no_drain :
    got (step (next dev drainEvent)) (fun t => t.ctl.pendDrain) = some false := by decide +kernel

/-- R4, R104: an operation of the other role is refused by name. -/
theorem test_absent : exec .fsStep ctl = .refused .absentInRole ∧ exec .cmdOn dev = .refused .absentInRole :=
  ⟨rfl, rfl⟩

/-- A draw that repeats: after `now`, `rest` and `loop` in turn. -/
theorem test_draw_repeats : Draw.take 7 (⟨[9], 1, [2, 3]⟩ : Draw Nat) = [9, 1, 2, 3, 1, 2, 3] := by decide

/-! ### Witnesses: a state and operands that meet each obligation's hypotheses -/

/-- A controller about to poll (`mn`, `mx`) inside a run. -/
def polling (mn mx : Nat) (p : SeqPos) (k : Nat) : State :=
  { ctl.goto p with ops := [call (.pollRange mn mx) k, call .discover 7, call .cycle 4] }

/-- States that no run reaches and that a step would lead out of `Safe` are not in it: `CYCLE` after a run
inside a frame (R152), `DISCOVER` testing the `while` poll with another poll's range (R194). -/
theorem test_safe_shuts_out :
    Safe { ctl.goto (.frame 3) with ops := [call .cycle 4] } = false ∧
    Safe { ctl.goto (.poll 5 8 (.window 1)) with ops := [call .discover 3, call .cycle 4] } = false ∧
    Safe { ctl.goto (.disc .inner 5 8) with ops := [call .discover 3, call .cycle 4] } = false ∧
    Safe { ctl.goto (.poll 1 512 (.window 1)) with ops := [call .discover 3, call .cycle 4] } = true := by
  decide +kernel

theorem witness_StepKeepsSafe : Safe ctl = true ∧ Safe dev = true ∧ (∃ t, step ctl = .next t) ∧
    ∃ t, step dev = .next t := ⟨by decide +kernel, by decide +kernel, ⟨_, rfl⟩, ⟨_, rfl⟩⟩

theorem witness_SafeStateNeverStops :
    Safe (polling 1 512 (.poll 1 512 (.bitmap 512)) 3) = true ∧ Safe (devRx ⟨0, true⟩) = true := by
  decide +kernel

theorem witness_OperationsOfTheRoleComplete :
    (Safe ctl = true ∧ Instr.existsIn ctl.par.role .discover = true) ∧
    Safe dev = true ∧ Instr.existsIn dev.par.role .fsStep = true := by decide +kernel

theorem witness_OnlyAbsentOperationsAreRefused :
    Instr.existsIn ctl.par.role .fsStep = false ∧ Instr.existsIn ctl.par.role .cycle = true := by decide

theorem witness_OnlyNonexistentElementsFault :
    let s := { ctlAt (.frame 513) 2 with ctl := { (ctlAt (.frame 513) 2).ctl with maxDmxAddr := 513 } }
    let u := { ctlAt (.disc .inner 5 5) 12 with ctl := { (ctlAt (.disc .inner 5 5) 12).ctl with dlCount := 10 } }
    (s.par.role = .controller ∧ s.runsFrom 2 = true ∧ s.ctl.seq = .frame 513 ∧ 512 < 513 ∧
      513 ≤ s.ctl.maxDmxAddr.toNat ∧ exec .dataFrame s = .fault (.noSuchSlot 513)) ∧
    u.par.role = .controller ∧ u.runsFrom 12 = true ∧ 10 ≤ u.ctl.dlCount ∧
      exec .discover u = .fault (.noSuchEntry 10) :=
  ⟨⟨rfl, rfl, rfl, by decide, by decide, rfl⟩, rfl, rfl, by decide, rfl⟩

theorem witness_StepsStayInTheirRole :
    (Safe ctl = true ∧ ctl.drawEvent.1.reset = false ∧ ∃ t, step ctl = .next t) ∧
    Safe dev = true ∧ dev.drawEvent.1.reset = false ∧ ∃ t, step dev = .next t :=
  ⟨⟨by decide +kernel, rfl, ⟨_, rfl⟩⟩, by decide +kernel, rfl, ⟨_, rfl⟩⟩

theorem witness_DecodeOfEncode :
    WellFormed (.cmdEnq (List.replicate 1023 0x61)) = true ∧ WellFormed (.pollRange 1 (2 ^ 40)) = true ∧
    WellFormed (.rxStrayFe 1) = true ∧ WellFormed (.scOther 0xFF) = true ∧ WellFormed (.sendBreak 0xF0) = true := by
  decide +kernel

theorem witness_EncodeOfDecode :
    decode ⟨.cmd, [0x120000FF], []⟩ = .ok (.cmdSet 512 255) ∧ ∀ bytes, Instr.cmdSet 512 255 ≠ .cmdEnq bytes :=
  ⟨by decide, fun _ h => by cases h⟩

theorem witness_EnqBytesComeFromTheirBits :
    decode ⟨.cmd, [0x80050000, 0x6C6C6568, 0x0000006F], []⟩ = .ok (.cmdEnq [0x68, 0x65, 0x6C, 0x6C, 0x6F]) := by
  decide

theorem witness_StepRunsDecodedInstruction :
    let s := { ctl with ops := [⟨⟨.cmd, [0x40000000], []⟩, 1⟩] }
    (s.pendTick = false ∧ s.ctl.pendDrain = false ∧ s.env.events.next.1.isQuiet = true ∧
      s.ops = [⟨⟨.cmd, [0x40000000], []⟩, 1⟩] ∧ decode ⟨.cmd, [0x40000000], []⟩ = .ok .cmdOn) ∧
    (ctl.pendTick = false ∧ ctl.ctl.pendDrain = false ∧ ctl.env.events.next.1.isQuiet = true ∧
      ctl.ops = [] ∧ ctl.par.role = .controller) ∧
    dev.pendTick = false ∧ dev.ctl.pendDrain = false ∧ dev.env.events.next.1.isQuiet = true ∧
      dev.ops = [] ∧ dev.par.role = .device := by decide

theorem witness_StepRunsPlacedWord :
    decodeTableWord 8 0x0A = some .fsStep ∧ decodeTableWord 32 0x40000000 = some .cmdOn ∧
    Instr.existsIn ctl.par.role .cmdOn = true := by decide

theorem witness_RequestsAreTakenFirstInEitherOrder :
    let u := fun e : Event => State.raise (next ctl e).drawEvent.2 (next ctl e).drawEvent.1
    (next ctl resetEvent).drawEvent.1.reset = true ∧
    ((next ctl tickEvent).drawEvent.1.reset = false ∧ (u tickEvent).pendTick = true ∧
      (u tickEvent).ctl.pendDrain = false) ∧
    ((next ctl drainEvent).drawEvent.1.reset = false ∧ (u drainEvent).pendTick = false ∧
      (u drainEvent).ctl.pendDrain = true) ∧
    (u ⟨true, true, false, false⟩).pendTick = true ∧ (u ⟨true, true, false, false⟩).ctl.pendDrain = true := by
  decide

theorem witness_HandlersLeaveControlState :
    (∃ t, exec .tick dev = .next t) ∧ ∃ t, exec .drainOne ctl = .next t := ⟨⟨_, rfl⟩, ⟨_, rfl⟩⟩

/-- Stopped after one line, and not stopped at all because it ends first. -/
theorem witness_StoppedOperationsGoOn :
    (Instr.cmdOn ≠ .tick ∧ Instr.cmdOn ≠ .drainOne ∧ Instr.cmdOn ≠ .reset) ∧
    got (exec .cmdOn (ctl.withCut (some 0))) (fun t => (t.ctl.outEn, t.ops)) =
      some (true, [call .cmdOn 1]) ∧
    got (exec .cmdOn (ctl.withCut (some 1))) (fun t => t.ops) = some [] := by decide +kernel

/-- Both clauses of R302's statement by role. -/
theorem witness_TickCountsDownAndExpires : ctl.par.role = .controller ∧ dev.par.role = .device := by decide

/-- The range ends of the commands' addresses: 1 and 512 inside, 0 and 513 outside. -/
theorem witness_SetWritesItsSlot : (ctl.par.role = .controller ∧ ctl.runsFrom 0 = true) ∧
    (1 ≤ (1 : Addr).toNat ∧ (1 : Addr).toNat ≤ 512) ∧ (1 ≤ (512 : Addr).toNat ∧ (512 : Addr).toNat ≤ 512) ∧
    ¬(1 ≤ (0 : Addr).toNat ∧ (0 : Addr).toNat ≤ 512) ∧ ¬(1 ≤ (513 : Addr).toNat ∧ (513 : Addr).toNat ≤ 512) := by
  decide

theorem witness_SetThenGetReturnsData :
    ctl.par.role = .controller ∧ ctl.runsFrom 0 = true ∧ ctl.started.runsFrom 0 = true ∧
      1 ≤ (512 : Addr).toNat ∧ (512 : Addr).toNat ≤ 512 := by decide

/-- Also of the other commands' statements whose hypotheses are these two. -/
theorem witness_GetAnswersTheSlot : ctl.par.role = .controller ∧ ctl.runsFrom 0 = true := by decide

theorem witness_RegisterCommandsWriteTheirRegister : (ctl.par.role = .controller ∧ ctl.runsFrom 0 = true) ∧
    (1 ≤ (512 : Addr).toNat ∧ (512 : Addr).toNat ≤ 512) ∧
    ¬(1 ≤ (513 : Addr).toNat ∧ (513 : Addr).toNat ≤ 512) := by decide

theorem witness_ClearZeroesEverySlot : ctl.par.role = .controller ∧ ctl.runsFrom 0 = true := by decide

theorem witness_CommandsNeverTouchTheBus :
    (Instr.format .cmdOn = .cmd ∧ ∃ t, exec .cmdOn ctl = .next t) ∧
    (Instr.format (.cmdEnq [1]) = .cmd ∧ ∃ t, exec (.cmdEnq [1]) (ctl.withCut (some 3)) = .next t) :=
  ⟨⟨rfl, ⟨_, rfl⟩⟩, rfl, ⟨_, rfl⟩⟩

/-- One word for each ground of R100: OP 0, OP 9, `w[26]`, `w[8]`, `D` of `GET`, `A` of `ON`. -/
theorem witness_IllegalCommandsAnswerErr :
    (ctl.par.role = .controller ∧ ctl.pendTick = false ∧ ctl.ctl.pendDrain = false ∧
      ctl.env.events.next.1.isQuiet = true) ∧
    (cmdOp 0x00000000).toNat = 0 ∧ 9 ≤ (cmdOp 0x9005000A).toNat ∧ cmdReservedHigh 0x14010000 ≠ 0 ∧
    cmdReservedLow 0x10010100 ≠ 0 ∧ (cmdOp 0x20010001 ≠ 1 ∧ cmdD 0x20010001 ≠ 0) ∧
    (4 ≤ (cmdOp 0x40010000).toNat ∧ (cmdOp 0x40010000).toNat ≤ 7 ∧ cmdA 0x40010000 ≠ 0) := by decide

theorem witness_EnqueueStoresThePrefixThatFits :
    let s := ring 254 0 false []
    let u := ring 255 0 true []
    (s.par.role = .controller ∧ s.runsFrom 0 = true ∧ s.ctl.full = false ∧ s.ctl.head + 1 ≠ s.ctl.tail) ∧
    u.runsFrom 0 = true ∧ u.ctl.full = true := by decide

theorem witness_EnqueueRunsItsNumberedSteps :
    (∀ a : EnqAt, (enqAt (decide (a = .e1)) a [0x63] 2).par.role = .controller ∧
      (enqAt (decide (a = .e1)) a [0x63] 2).runsOnly 2 = true ∧
      (enqAt (decide (a = .e1)) a [0x63] 2).ctl.enq = some ⟨[0x63], a, 0⟩) ∧
    (enqAt true .e1 [0x63] 2).ctl.full = true ∧ (enqAt false .e1 [0x63] 2).ctl.full = false ∧
    ((enqAt false .e1 [] 1).runsOnly 1 = true ∧ (enqAt false .e1 [] 1).ctl.enq = some ⟨[], .e1, 0⟩) ∧
    (enqAt false .e1 [0x63] 1).runsOnly 1 = true ∧ (enqAt false .e1 [0x63] 3).runsOnly 3 = true ∧
    (only ctl 0).runsOnly 0 = true ∧ (only ctl 4).runsOnly 4 = true :=
  ⟨fun a => by cases a <;> decide, by decide, by decide, by decide, by decide, by decide, by decide, by decide⟩

theorem witness_DrainPopsOneByte : (ring 0 0 false []).par.role = .controller ∧
    (ring 0 0 false []).ctl.head = (ring 0 0 false []).ctl.tail ∧
    (ring 0 255 false []).ctl.head ≠ (ring 0 255 false []).ctl.tail := by decide

theorem witness_BytesPassTheRingInOrder :
    let s := next (ring 3 1 false [(1, 0x61), (2, 0x62)]) drainEvent
    Safe s = true ∧ s.drawEvent.1.reset = false ∧ ∃ t, step s = .next t :=
  ⟨by decide +kernel, rfl, ⟨_, rfl⟩⟩

/-- A call at E5 whose `t` is older than two drains (the premise of the refuted reading of R273). -/
theorem witness_FullMeansAtLeast254Held :
    let s := { ring 255 255 false [] with
      ctl := { (ring 255 255 false []).ctl with enq := some ⟨[0x61], .e5, 0⟩ }
      ops := [call (.cmdEnq [0x61]) 2, call .cycle 1] }
    Safe s = true ∧ got (step s) (fun t => (t.ctl.full, t.ctl.enq, ringCount t.ctl.head t.ctl.tail)) =
      some (true, none, 0) := by decide +kernel

theorem witness_SendBreakSendsOnePreamble :
    let busy := { ctl with env := { ctl.env with rxIdle := ⟨[], false, []⟩ } }
    let idle := fun s : State => (s.env.txEmpty.next.1 && s.env.rxIdle.next.1) = true
    let w := waitsAt ctl
    (ctl.par.role = .controller ∧ ctl.runsFrom 0 = true ∧ idle ctl ∧
      (ctl.env.txReady.next.1 && ctl.env.txReady.next.2.next.1) = true ∧
      ctl.env.txEmpty.next.2.next.1 = true) ∧
    (busy.runsFrom 0 = true ∧ (busy.env.txEmpty.next.1 && busy.env.rxIdle.next.1) = false) ∧
    ((w 0 [false] []).runsFrom 0 = true ∧ idle (w 0 [false] []) ∧ (w 0 [false] []).env.txReady.next.1 = false) ∧
    ((w 0 [] [true, false]).runsFrom 0 = true ∧ idle (w 0 [] [true, false]) ∧
      (w 0 [] [true, false]).env.txEmpty.next.2.next.1 = false) ∧
    ((w 4 [false] []).runsFrom 4 = true ∧ (w 7 [false] []).runsFrom 7 = true ∧
      (w 7 [false] []).env.txReady.next.1 = false) ∧
    ((w 4 [] []).runsFrom 4 = true ∧ (w 4 [] []).env.txEmpty.next.1 = true) ∧
    ((w 5 [] [false]).runsFrom 5 = true ∧ (w 5 [] [false]).env.txEmpty.next.1 = false) ∧
    ((w 5 [false] []).runsFrom 5 = true ∧ (w 5 [false] []).env.txEmpty.next.1 = true ∧
      (w 5 [false] []).env.txReady.next.1 = false) ∧
    ((w 5 [] []).runsFrom 5 = true ∧ (w 5 [] []).env.txEmpty.next.1 = true ∧
      (w 5 [] []).env.txReady.next.1 = true) ∧
    (w 7 [] []).runsFrom 7 = true ∧ (w 7 [] []).env.txReady.next.1 = true := by decide

theorem witness_SlotAndReleaseActOnTheLine :
    let w := waitsAt ctl
    (ctl.par.role = .controller ∧ ctl.runsFrom 0 = true ∧ ctl.env.txReady.next.1 = true ∧
      ctl.env.txReady.next.2.next.1 = true ∧ ctl.env.txEmpty.next.1 = true) ∧
    ((w 0 [true, false] []).runsFrom 0 = true ∧ (w 0 [true, false] []).env.txReady.next.1 = true ∧
      (w 0 [true, false] []).env.txReady.next.2.next.1 = false) ∧
    ((w 0 [false] []).runsFrom 0 = true ∧ (w 1 [false] []).runsFrom 1 = true ∧
      (w 1 [false] []).env.txReady.next.1 = false) ∧
    ((w 1 [] []).runsFrom 1 = true ∧ (w 1 [] []).env.txReady.next.1 = true) ∧
    (w 0 [] [false]).runsFrom 0 = true ∧ (w 0 [] [false]).env.txEmpty.next.1 = false := by decide

theorem witness_BareBreakAnswersThePoll :
    let w := waitsAt dev
    (dev.par.role = .device ∧ dev.runsFrom 0 = true ∧ dev.env.txReady.next.1 = true ∧
      dev.env.txEmpty.next.1 = true) ∧
    ((w 0 [false] []).runsFrom 0 = true ∧ (w 0 [false] []).env.txReady.next.1 = false) ∧
    ((w 0 [] [false]).runsFrom 0 = true ∧ (w 0 [] [false]).env.txReady.next.1 = true ∧
      (w 0 [] [false]).env.txEmpty.next.1 = false) ∧
    ((w 2 [false] []).runsFrom 2 = true ∧ (w 2 [] []).runsFrom 2 = true) ∧
    (w 3 [] []).runsFrom 3 = true ∧ (w 3 [] [false]).runsFrom 3 = true := by decide

theorem witness_DataFramePass :
    (ctl.par.role = .controller ∧ ctl.runsFrom 0 = true) ∧
    ((ctlAt .boundary 1).runsFrom 1 = true ∧ 1 ≤ (ctlAt .boundary 1).ctl.maxDmxAddr.toNat) ∧
    (ctlAt (.frame 1) 4).runsFrom 4 = true ∧
    ((ctlAt (.frame 511) 5).runsFrom 5 = true ∧ (ctlAt (.frame 511) 5).ctl.seq = .frame 511 ∧
      511 + 1 ≤ (ctlAt (.frame 511) 5).ctl.maxDmxAddr.toNat ∧
      (ctlAt (.frame 511) 5).ctl.maxDmxAddr.toNat ≤ 512) ∧
    (ctlAt (.frame 512) 5).ctl.seq = .frame 512 ∧ (ctlAt (.frame 512) 5).ctl.maxDmxAddr.toNat < 512 + 1 := by
  decide

theorem witness_DataFrameOnTheWire :
    let s := { ctl with
      ops := [call .dataFrame 0, call .cycle 0], env := { Env.quiet with present := ⟨[], false, []⟩ } }
    s.par.role = .controller ∧ s.undisturbed = true ∧ s.uartReady = true ∧ s.noCommands = true ∧
      1 ≤ s.ctl.maxDmxAddr.toNat ∧ s.ctl.maxDmxAddr.toNat ≤ 512 ∧
      s.ops = call .dataFrame 0 :: [call .cycle 0] := by decide

theorem witness_CheckpointTakesOneCommand :
    let s := presenting [0x80050000, 0x6C6C6568, 0x0000006F, 0x60000000]
    (s.par.role = .controller ∧ s.runsFrom 0 = true ∧ s.env.present.next.1 = true ∧
      [(0x6C6C6568 : Word), 0x0000006F].length =
        (if cmdOp 0x80050000 = 8 then ((cmdA 0x80050000).toNat + 3) / 4 else 0) ∧
      s.env.cmd.take ([(0x6C6C6568 : Word), 0x0000006F].length + 1) =
        0x80050000 :: [0x6C6C6568, 0x0000006F]) ∧
    ctl.runsFrom 0 = true ∧ ctl.env.present.next.1 = false := by decide

theorem witness_CyclePass :
    let s := ctlAt .boundary 1
    (ctl.par.role = .controller ∧ ctl.runsFrom 0 = true) ∧
    (s.runsFrom 1 = true ∧ s.ctl.discPending = false ∧ s.ctl.outEn = false) ∧
    (State.runsFrom { s with ctl := { s.ctl with discPending := true } } 1 = true) ∧
    (State.runsFrom { s with ctl := { s.ctl with outEn := true } } 1 = true) ∧
    (ctlAt .boundary 4).runsFrom 4 = true := by decide

theorem witness_PollRangePass :
    let s := fun (p : PollStage) (k : Nat) => ctlAt (.poll 5 8 p) k
    (ctl.par.role = .controller ∧ ctl.runsFrom 0 = true) ∧ (s .brk 1).runsFrom 1 = true ∧
    ((s (.bitmap 511) 3).runsFrom 3 = true ∧ (s (.bitmap 511) 3).ctl.seq = .poll 5 8 (.bitmap (512 - 1))) ∧
    (s (.bitmap 512) 3).ctl.seq = .poll 5 8 (.bitmap 512) ∧
    (State.runsFrom { s .release 5 with env := { ctl.env with rx := ⟨[some ⟨0, true⟩], none, []⟩ } } 5 = true) ∧
    (only (s .release 5) 5).runsOnly 5 = true ∧
    ((only (s (.window 60) 6) 6).runsOnly 6 = true ∧ (only (s (.window 60) 6) 6).env.rx.next.1 = none) ∧
    ((s (.window 1) 7).runsFrom 7 = true ∧ (s (.window 1) 7).ctl.answer = false) ∧
    ((answered 5 8 true 0).runsFrom 7 = true ∧ (answered 5 8 true 0).ctl.answer = true) ∧
    ((only (s (.window 59) 9) 9).runsOnly 9 = true ∧
      (only (s (.window 59) 9) 9).ctl.seq = .poll 5 8 (.window 59)) ∧
    (s (.window 60) 8).runsFrom 8 = true ∧ (s (.window 60) 8).ctl.seq = .poll 5 8 (.window 60) := by decide

theorem witness_PollWindowClassifies :
    ctl.par.role = .controller ∧ ctl.runsFrom 0 = true ∧ (0x80 : Byte) ≠ 0 := by decide

theorem witness_PollFrameOnTheWire :
    let s := polling 5 8 (.disc .inner 5 8) 0
    s.par.role = .controller ∧ s.undisturbed = true ∧ s.uartReady = true ∧
      WellFormed (.pollRange 5 8) = true ∧
      s.ops = call (.pollRange 5 8) 0 :: [call .discover 7, call .cycle 4] := by decide +kernel

theorem witness_PollWindowReturnsTheAnswer :
    let s := polling 5 8 (.poll 5 8 .release) 5
    s.par.role = .controller ∧ s.undisturbed = true ∧ WellFormed (.pollRange 5 8) = true ∧
      s.ops = call (.pollRange 5 8) 5 :: [call .discover 7, call .cycle 4] := by decide +kernel

theorem witness_DiscoverPass :
    let s := ctlAt (.poll 1 512 (.window 1)) 3
    (ctl.par.role = .controller ∧ ctl.runsFrom 0 = true) ∧
    (s.runsFrom 3 = true ∧ s.ctl.answer = false) ∧
    (State.runsFrom { s with ctl := { s.ctl with answer := true } } 3 = true) ∧
    ((answered 5 6 true 0).runsFrom 7 = true ∧ (answered 5 6 true 0).ctl.seq.range = (5, 6)) ∧
    ((answered 1 511 false 0).ctl.answer = false ∧ (answered 1 511 false 0).ctl.seq.range = (1, 511)) ∧
    (answered 512 512 false 0).ctl.seq.range = (512, 512) := by decide

theorem witness_SingletonIsAppendedOrOverflows :
    let s := answered 5 5 true 9
    (s.par.role = .controller ∧ s.runsFrom 7 = true ∧ s.ctl.seq.range = (5, 5) ∧ s.ctl.answer = true ∧
      s.ctl.dlCount < 10) ∧
    (answered 5 5 true 10).ctl.dlCount = 10 := by decide

/-- A known address answered again is the one way the list gets a repeated entry (R354). -/
theorem witness_DiscoveredAddressesStayDistinct :
    let s := fun dl : Addr => { answered 5 5 true 1 with
      line := 0, ops := [call .discover 7, call .cycle 4]
      ctl := { (answered 5 5 true 1).ctl with dl := [(0, dl)] } }
    (Safe (s 3) = true ∧ (s 3).discovered.Nodup ∧
      got (step (s 3)) (fun t => t.discovered) = some [3, 5]) ∧
    Safe (s 5) = true ∧ (s 5).discovered.Nodup ∧
      got (step (s 5)) (fun t => t.discovered) = some [5, 5] := by decide +kernel

theorem witness_CensusRangesHalveOrAdvance :
    (censusRange 1 512 = true ∧ 1 ≤ 512 ∧ 1 < 512) ∧ censusRange 512 512 = true ∧ 512 ≤ 512 := by decide

theorem witness_SilentBusEndsTheRunAfterOnePoll :
    let s := { ctl with ops := [call .discover 0, call .cycle 4] }
    s.par.role = .controller ∧ s.undisturbed = true ∧ s.uartReady = true ∧
      s.ops = call .discover 0 :: [call .cycle 4] ∧
      ((s.env.rx.take 60).any fun c => c = some ⟨0, true⟩) = false := by decide +kernel

theorem witness_NoiseCanRepeatForEver :
    let s := { ctl with
      ops := [call .discover 2, call .cycle 4]
      env := { ctl.env with rx := ⟨[], some ⟨0, true⟩, List.replicate 60 none⟩ } }
    s.par.role = .controller ∧ s.undisturbed = true ∧ s.uartReady = true ∧
      s.ops = call .discover 2 :: [call .cycle 4] ∧
      s.env.rx = ⟨[], some ⟨0, true⟩, List.replicate 60 none⟩ := by decide +kernel

theorem witness_FsStepConsumesOneCharacter :
    dev.par.role = .device ∧ dev.runsFrom 0 = true ∧ dev.env.rx.next.1 = none ∧
    (devRx ⟨0x55, false⟩).env.rx.next.1 = some ⟨0x55, false⟩ := by decide

theorem witness_BreakResynchronisesOthersAreDropped :
    ((dev3 .idle 0).par.role = .device ∧ (dev3 .idle 0).runsFrom 0 = true ∧ (dev3 .idle 0).dev.fs = .idle ∧
      (3 : Addr) = deviceAddress (dev3 .idle 0).env.pins.next.1) ∧ (dev3 .synced 7).dev.fs = .synced := by
  decide

/-- The own slot 3 and the boundary slots 0 and 512. -/
theorem witness_SyncedDataIsExtracted :
    (dev3 .synced 3).par.role = .device ∧ (dev3 .synced 3).runsFrom 0 = true ∧
    (dev3 .synced 3).dev.fs = .synced ∧
    (dev3 .synced 3).dev.slot = deviceAddress (dev3 .synced 3).env.pins.next.1 ∧
    (dev3 .synced 512).dev.slot ≠ deviceAddress (dev3 .synced 512).env.pins.next.1 ∧
    (dev3 .synced 0).dev.slot ≠ deviceAddress (dev3 .synced 0).env.pins.next.1 := by decide

theorem witness_AwaitSCTakesAnyCharacterAsStartCode :
    (dev3 .awaitSC 0).par.role = .device ∧ (dev3 .awaitSC 0).runsFrom 0 = true ∧
      (dev3 .awaitSC 0).dev.fs = .awaitSC := by decide

theorem witness_DataStartCodeSynchronises :
    (dev3 .awaitSC 0).par.role = .device ∧ (dev3 .awaitSC 0).runsFrom 0 = true := by decide

theorem witness_DataStartCodeStopsBetweenItsLines :
    (∀ k : Fin 4, (only (dev3 .awaitSC 0) k).runsOnly k = true) ∧
    (only (dev3 .awaitSC 0) 3).counter dev.par.changeCtr.id = 0 ∧
    State.counter { only (dev3 .awaitSC 0) 3 with tmo := ⟨0, 1, 0⟩ } dev.par.changeCtr.id ≠ 0 ∧
    State.runsFrom { dev3 .awaitSC 0 with line := 4 } 4 = true := by decide

theorem witness_OtherStartCodes :
    dev.par.role = .device ∧ dev.runsFrom 0 = true ∧ (0xCC : Byte) ≠ 0x00 ∧ (0xCC : Byte) ≠ 0xF0 := by decide

theorem witness_PollReadCountsPositions :
    let last := { dev with dev := { dev.dev with fs := .pollRead, pollIdx := 512 } }
    ((dev3 .pollRead 0).par.role = .device ∧ (dev3 .pollRead 0).runsFrom 0 = true ∧
      (dev3 .pollRead 0).dev.fs = .pollRead ∧ (dev3 .pollRead 0).dev.pollIdx ≠ 512) ∧
    last.runsFrom 0 = true ∧ last.dev.fs = .pollRead ∧ last.dev.pollIdx = 512 := by decide

/-- Address 3, with three characters and so at most `n`. -/
theorem witness_DeviceHealsAtEachBreak :
    let s := { dev3 .synced 7 with
      ops := [call .fsStep 0]
      env := { (dev3 .synced 7).env with rx :=
        ⟨[some ⟨0, true⟩, some ⟨0, false⟩, some ⟨0x11, false⟩, some ⟨0x22, false⟩, some ⟨0x33, false⟩],
          none, []⟩ } }
    s.par.role = .device ∧ s.undisturbed = true ∧ s.ops = [call .fsStep 0] ∧ s.dev.fs = .synced ∧
      (s.env.pins.all fun q => decide (q = 0x1FD)) = true ∧
      [(0x11 : Byte), 0x22, 0x33].length < 512 ∧
      s.env.rx.now = some ⟨0, true⟩ :: some ⟨0, false⟩ ::
        [(0x11 : Byte), 0x22, 0x33].map (fun b => some ⟨b, false⟩) ∧
      (deviceAddress 0x1FD).toNat ≤ [(0x11 : Byte), 0x22, 0x33].length := by decide

end Sys2Proof.Tests
end

/-! SUPPORT. The quiet step boundary (spec 00_scope.md R15, 60_exceptions.md R304, R305): what the next step
runs when no request is pending and the draw raises none, and the obligation on it. -/

namespace Sys2Proof.Machine

/-! ### The main loop's next operation -/

theorem fetchMain_of_called {s : State} {c : Call} {later : List Call} {i : Instr}
    (ho : s.ops = c :: later) (hd : decode c.image = .ok i) :
    fetchMain s = .run i { s with ops := later, line := c.line } := by
  simp only [fetchMain, ho, hd]

theorem fetchMain_of_none_called {s : State} (ho : s.ops = []) :
    fetchMain s = .run (loopInstr s) s := by
  simp only [fetchMain, ho]

theorem loopInstr_of_controller {s : State} (hr : s.par.role = .controller) : loopInstr s = .cycle := by
  simp only [loopInstr, hr]

theorem loopInstr_of_device {s : State} (hr : s.par.role = .device) : loopInstr s = .fsStep := by
  simp only [loopInstr, hr]

/-! ### The boundary -/

theorem reset_of_isQuiet {e : Event} (h : e.isQuiet = true) : e.reset = false := by
  simp only [Event.isQuiet, Bool.and_eq_true, Bool.not_eq_true'] at h
  exact h.2

/-- At a quiet boundary neither reset nor a handler comes before the main loop. -/
theorem fetch_of_quiet {s : State} (ht : s.pendTick = false) (hp : s.ctl.pendDrain = false)
    (hq : s.env.events.next.1.isQuiet = true) : fetch s = fetchMain s.drawEvent.2 := by
  have hraise : s.drawEvent.2.raise s.drawEvent.1 = s.drawEvent.2 := raise_of_isQuiet hq
  rcases fetch_cases s with ⟨hr, -⟩ | ⟨-, ⟨i, hi, -⟩ | ⟨-, -, hf⟩⟩
  · exact absurd hr (Bool.eq_false_iff.1 (reset_of_isQuiet hq))
  · rw [hraise] at hi
    simp [ht, hp] at hi
  · rw [hf, hraise]

theorem step_of_fetch_run {s t : State} {i : Instr} (h : fetch s = .run i t) : step s = exec i t := by
  simp only [step, h]

end Sys2Proof.Machine

namespace Sys2Proof.Proofs

open Sys2Proof.Machine

/-- Settles O16: a quiet boundary leads to the main loop, which takes the operation called last, or the
loop of the role when none is called. -/
theorem stepRunsDecodedInstruction : Obligations.StepRunsDecodedInstruction := by
  intro s ht hp hq
  have hf : fetch s = fetchMain s.drawEvent.2 := fetch_of_quiet ht hp hq
  refine ⟨fun c later i ho hd => ?called, fun ho hr => ?cycle, fun ho hr => ?fsStep⟩
  case called => exact step_of_fetch_run (hf.trans (fetchMain_of_called ho hd))
  case cycle =>
    have hl : loopInstr s.drawEvent.2 = .cycle := loopInstr_of_controller hr
    exact step_of_fetch_run (hf.trans (hl ▸ fetchMain_of_none_called ho))
  case fsStep =>
    have hl : loopInstr s.drawEvent.2 = .fsStep := loopInstr_of_device hr
    exact step_of_fetch_run (hf.trans (hl ▸ fetchMain_of_none_called ho))

end Sys2Proof.Proofs

/-! SUPPORT. Reset, the device address and the discovered addresses (spec 10_state.md R30, R46, R47): what
reset leaves, what a step can do to the list of discovered addresses, and the obligations on them. -/

namespace Sys2Proof.Machine

/-! ### Reset -/

/-- `RESET` is its state: every element of R47, in the same environment and after the same outputs. -/
theorem exec_reset (s : State) :
    exec .reset s = .next (State.resetWith s.par s.env s.out (s.resets + 1)) := rfl

/-- Every slot of the channel frame is zero after reset (R47). -/
theorem chanRead_resetWith (p : Params) (env : Env) (out : Outputs) (n i : Nat) :
    (State.resetWith p env out n).chanRead i = 0 := rfl

/-! ### The device address -/

theorem toNat_deviceAddress (p : Pins) : (deviceAddress p).toNat = 512 - p.toNat := by
  unfold deviceAddress
  bv_omega

/-! ### Operations as lines -/

/-- The lines of an operation; the interrupt handlers and `RESET` are one atomic step and have none. -/
def lines? : Instr → Option (Nat → State → LineEnd)
  | .rxBreak => some (receiveLines ⟨0, true⟩)
  | .rxStrayFe b => some (receiveLines ⟨b, true⟩)
  | .rxData b => some (receiveLines ⟨b, false⟩)
  | .scData => some scDataLines
  | .scPoll => some scPollLines
  | .scOther _ => some scOtherLines
  | .cmdSet a d => some (setLines a d)
  | .cmdGet a => some (getLines a)
  | .cmdMax a => some (maxLines a)
  | .cmdOn => some (outputLines true)
  | .cmdOff => some (outputLines false)
  | .cmdPoll => some pollLines
  | .cmdClear => some clearLines
  | .cmdEnq bytes => some (enqLines bytes)
  | .sendBreak sc => some (sendBreakLines sc)
  | .putSlot b => some (putSlotLines b)
  | .releaseDe => some releaseDeLines
  | .bareBreak => some bareBreakLines
  | .dataFrame => some dataFrameLines
  | .checkpoint => some checkpointLines
  | .cycle => some cycleLines
  | .pollRange mn mx => some (pollRangeLines mn mx)
  | .discover => some discoverLines
  | .fsStep => some fsStepLines
  | .drainOne | .tick | .reset => none

/-- An operation with lines takes a next state only by performing them. -/
theorem perform_of_exec_next {i : Instr} {lines : Nat → State → LineEnd} {s t : State}
    (hl : lines? i = some lines) (h : exec i s = .next t) :
    ∃ fuel, perform i lines fuel s = .next t := by
  cases i with
  | rxBreak | rxStrayFe | rxData => cases hl; exact ⟨_, h⟩
  | drainOne | tick | reset => cases hl
  | _ => cases hl; exact ⟨_, (inRole_eq_next.1 h).2⟩

theorem lines?_eq_none {i : Instr} : lines? i = none ↔ i = .drainOne ∨ i = .tick ∨ i = .reset := by
  cases i <;> simp [lines?]

/-! ### What the lines leave of the discovered addresses -/

theorem LineEnd.Leaves.mono {P Q : State → Prop} {e : LineEnd} (h : e.Leaves P) (hPQ : ∀ s, P s → Q s) :
    e.Leaves Q := by
  cases e with
  | stop => trivial
  | _ => exact hPQ _ h

@[simp] theorem discovered_setDe (s : State) (v : Bool) : (s.setDe v).discovered = s.discovered := by
  rw [setDe_eq]; rfl

@[simp] theorem discovered_setCounter (s : State) (c : CounterId) (n : Nat) :
    (s.setCounter c n).discovered = s.discovered := by
  rw [setCounter_eq]; rfl

theorem receiveLines_keep_discovered (c : RxChar) (k : Nat) (s : State) :
    (receiveLines c k s).Leaves fun u => u.discovered = s.discovered := by
  unfold receiveLines
  split
  · refine (deviceLines_frame c k s).mono fun u hu => ?_
    obtain ⟨_, _, _, _, rfl⟩ := hu
    rfl
  · rfl

/-- No operation with lines but `DISCOVER` has a line that writes the discovered addresses. -/
theorem lines_keep_discovered {i : Instr} {lines : Nat → State → LineEnd} (hl : lines? i = some lines)
    (hd : i ≠ .discover) (k : Nat) (s : State) :
    (lines k s).Leaves fun u => u.discovered = s.discovered := by
  cases i <;> cases hl
  case discover => exact absurd rfl hd
  case rxBreak | rxStrayFe | rxData => exact receiveLines_keep_discovered _ k s
  case cmdEnq bytes =>
    refine (enqLines_frame bytes k s).mono fun u hu => ?_
    obtain ⟨_, _, _, _, _, rfl⟩ := hu
    rfl
  case releaseDe =>
    unfold releaseDeLines holdUntil
    split
    case h_2 => exact discovered_setDe ..
    case h_1 => split <;> rfl
  case bareBreak =>
    unfold bareBreakLines holdUntil uartPutLine
    split
    case h_1 | h_6 => exact discovered_setDe ..
    all_goals (repeat' split) <;> rfl
  case putSlot => unfold putSlotLines holdUntil uartPutLine; (repeat' split) <;> rfl
  case sendBreak =>
    unfold sendBreakLines branch holdUntil uartPutLine
    split
    case h_3 => exact discovered_setDe ..
    all_goals (repeat' split) <;> rfl
  case scData =>
    unfold scDataLines
    split
    case h_3 => exact discovered_setCounter ..
    all_goals (repeat' split) <;> rfl
  case scPoll => unfold scPollLines; split <;> rfl
  case scOther | cmdPoll => rfl
  case cmdSet => unfold setLines branch; (repeat' split) <;> rfl
  case cmdGet => unfold getLines branch; (repeat' split) <;> rfl
  case cmdMax => unfold maxLines branch; (repeat' split) <;> rfl
  case cmdOn | cmdOff => unfold outputLines; split <;> rfl
  case cmdClear => unfold clearLines; split <;> rfl
  case dataFrame => dsimp only [dataFrameLines]; (repeat' split) <;> trivial
  case checkpoint => unfold checkpointLines; split <;> rfl
  case cycle => unfold cycleLines branch; (repeat' split) <;> rfl
  case pollRange => dsimp only [pollRangeLines]; (repeat' split) <;> rfl
  case fsStep => unfold fsStepLines; split <;> rfl

/-! ### What an operation can do to the discovered addresses -/

/-- What one step can do to the discovered addresses: keep them, empty them or append one in 1..512. -/
inductive ListChange (old : List Addr) : List Addr → Prop where
  | kept : ListChange old old
  | emptied : ListChange old []
  | appended (mn : Nat) (hlo : 1 ≤ mn) (hhi : mn ≤ Config.nAddr) :
    ListChange old (old ++ [BitVec.ofNat 10 mn])

@[simp] theorem discovered_drainBody (s : State) : (drainBody s).discovered = s.discovered := by
  rw [drainBody_eq]
  split <;> rfl

@[simp] theorem discovered_tickCounter (c : CounterId) (s : State) :
    (tickCounter c s).discovered = s.discovered := by
  rw [tickCounter_eq]; rfl

theorem discovered_of_exec_drainOne {s t : State} (h : exec .drainOne s = .next t) :
    t.discovered = s.discovered := by
  obtain ⟨-, ht⟩ := inRole_eq_next.1 h
  cases ht
  exact discovered_drainBody s

theorem discovered_of_exec_tick {s t : State} (h : exec .tick s = .next t) :
    t.discovered = s.discovered := by
  cases h
  calc (tickCounter .noData (tickCounter .green (tickCounter .red s))).discovered
      = (tickCounter .green (tickCounter .red s)).discovered := discovered_tickCounter ..
    _ = (tickCounter .red s).discovered := discovered_tickCounter ..
    _ = s.discovered := discovered_tickCounter ..

theorem discovered_of_exec_reset {s t : State} (h : exec .reset s = .next t) : t.discovered = [] := by
  cases h
  rfl

theorem listChange_of_exec_ne_discover {i : Instr} {s t : State} (hd : i ≠ .discover)
    (h : exec i s = .next t) : ListChange s.discovered t.discovered := by
  rcases hl : lines? i with _ | lines
  · rcases lines?_eq_none.1 hl with rfl | rfl | rfl
    · rw [discovered_of_exec_drainOne h]; exact .kept
    · rw [discovered_of_exec_tick h]; exact .kept
    · rw [discovered_of_exec_reset h]; exact .emptied
  · obtain ⟨fuel, hp⟩ := perform_of_exec_next hl h
    have hk : t.discovered = s.started.discovered :=
      perform_frame (fun _ _ => rfl) (lines_keep_discovered hl hd) hp
    rw [hk]
    exact .kept

/-! ### `DISCOVER` -/

/-- What an append by `DISCOVER` at line `k` needs: from line 5 on the range begins at 1 or above, past the
test of line 5 it begins at an address, and before the count rises the entry is written (R194, R195). -/
structure AppendOk (k : Nat) (s : State) : Prop where
  lo : 5 ≤ k → 1 ≤ s.ctl.seq.range.1
  hi : 6 ≤ k → s.ctl.seq.range.1 ≤ Config.nAddr
  entry : k = 13 → s.listRead s.ctl.dlCount = BitVec.ofNat 10 s.ctl.seq.range.1

theorem one_le_of_censusRange {mn mx : Nat} (h : censusRange mn mx = true) : 1 ≤ mn := by
  simp only [censusRange, List.any_eq_true, Bool.and_eq_true, decide_eq_true_eq] at h
  grind

theorem appendOk_of_discoverLineOk {k : Nat} {s : State} (h : discoverLineOk k s = true) :
    AppendOk k s := by
  simp only [discoverLineOk, Bool.and_eq_true, Bool.or_eq_true, decide_eq_true_eq] at h
  obtain ⟨⟨hrange, hhi⟩, hentry⟩ := h
  refine ⟨fun hk => ?lo, fun hk => hhi.resolve_left (by omega), fun hk => ?entry⟩
  case lo =>
    rw [if_neg (by omega), if_neg (by omega), Bool.and_eq_true] at hrange
    exact one_le_of_censusRange hrange.1
  case entry =>
    subst hk
    simp only [Bool.and_eq_true, decide_eq_true_eq] at hentry
    rw [State.listRead, hentry.2]
    rfl

theorem discovered_listWrite_dlCount (s : State) (v : Addr) :
    (s.listWrite s.ctl.dlCount v).discovered = s.discovered := by
  refine List.map_congr_left fun i hi => ?_
  have hne : i ≠ s.ctl.dlCount := Nat.ne_of_lt (List.mem_range.1 hi)
  rw [listRead_listWrite, if_neg hne]

theorem discovered_dlCount_succ (s : State) :
    State.discovered { s with ctl := { s.ctl with dlCount := s.ctl.dlCount + 1 } } =
      s.discovered ++ [s.listRead s.ctl.dlCount] := by
  simp only [State.discovered, List.range_succ, List.map_append]
  rfl

/-- Before line `k` of a run of `DISCOVER` that began with the list `old`: the list has changed and the run
is before its next call (line 2), or it has not and can be appended to. -/
def BeforeLine (old : List Addr) (k : Nat) (s : State) : Prop :=
  k ≤ 2 ∧ ListChange old s.discovered ∨ s.discovered = old ∧ AppendOk k s

theorem BeforeLine.listChange {old : List Addr} {k : Nat} {s : State} (h : BeforeLine old k s) :
    ListChange old s.discovered := by
  rcases h with ⟨-, h⟩ | ⟨h, -⟩
  · exact h
  · rw [h]; exact .kept

theorem AppendOk.of_range_eq {k k' : Nat} {s s' : State} (h : AppendOk k s) (hk : 6 ≤ k) (hk' : k' ≠ 13)
    (hr : s'.ctl.seq.range.1 = s.ctl.seq.range.1) : AppendOk k' s' :=
  ⟨fun _ => hr ▸ h.lo (by omega), fun _ => hr ▸ h.hi hk, fun he => absurd he hk'⟩

/-- The one line that appends, line 13, leads to line 2, and so to a call: one step appends once at most.
Case `h_n` is line `n - 1`. -/
theorem beforeLine_of_goOn {old : List Addr} {k k' : Nat} {s s' : State} (h : BeforeLine old k s)
    (hl : discoverLines k s = .goOn k' s') : BeforeLine old k' s' := by
  rcases h with ⟨hk, hc⟩ | ⟨rfl, hok⟩
  case inl =>
    obtain rfl | rfl | rfl : k = 0 ∨ k = 1 ∨ k = 2 := by omega
    · cases hl; exact .inl ⟨by omega, .emptied⟩
    · cases hl; exact .inl ⟨by omega, hc⟩
    · cases hl
  case inr =>
    dsimp only [discoverLines, branch] at hl
    split at hl
    case h_1 => cases hl; exact .inl ⟨by omega, .emptied⟩
    case h_2 => cases hl; exact .inl ⟨by omega, .kept⟩
    case h_4 =>
      split at hl <;> cases hl
      exact .inr ⟨rfl, by omega, by omega, by omega⟩
    case h_5 => cases hl; exact .inr ⟨rfl, fun _ => le_rfl, by omega, by omega⟩
    case h_6 =>
      split at hl <;> cases hl
      · exact .inl ⟨by omega, .kept⟩
      · exact .inr ⟨rfl, fun _ => hok.lo (by omega), fun _ => by omega, by omega⟩
    case h_8 | h_9 | h_10 | h_11 =>
      split at hl <;> cases hl
      all_goals exact .inr ⟨rfl, hok.of_range_eq (by omega) (by omega) rfl⟩
    case h_13 =>
      split at hl <;> cases hl
      refine .inr ⟨discovered_listWrite_dlCount s _, fun _ => hok.lo (by omega),
        fun _ => hok.hi (by omega), fun _ => ?_⟩
      simp
    case h_14 =>
      cases hl
      refine .inl ⟨by omega, ?_⟩
      rw [discovered_dlCount_succ, hok.entry rfl]
      exact .appended _ (hok.lo (by omega)) (hok.hi (by omega))
    case h_15 => cases hl; exact .inr ⟨rfl, hok.of_range_eq (by omega) (by omega) rfl⟩
    case h_16 => cases hl; exact .inr ⟨rfl, fun _ => Nat.succ_pos _, by omega, by omega⟩
    all_goals cases hl

/-- A line of `DISCOVER` that ends its run, by a call or a return, leaves the discovered addresses. Case
`h_n` is line `n - 1`. -/
theorem discoverLines_keep_at_end {k : Nat} {s : State} {e : LineEnd} (hl : discoverLines k s = e)
    (hgo : ∀ k' s', e ≠ .goOn k' s') : e.Leaves fun u => u.discovered = s.discovered := by
  dsimp only [discoverLines, branch] at hl
  split at hl
  case h_3 | h_7 | h_12 => subst hl; rfl
  case h_4 =>
    split at hl <;> subst hl
    · exact absurd rfl (hgo _ _)
    · rfl
  case h_13 =>
    split at hl <;> subst hl
    · exact absurd rfl (hgo _ _)
    · trivial
  all_goals (repeat' split at hl) <;> exact absurd hl.symm (hgo _ _)

theorem listChange_of_line {old : List Addr} {k : Nat} {s : State} {e : LineEnd} (h : BeforeLine old k s)
    (hl : discoverLines k s = e) : e.Leaves fun u => ListChange old u.discovered := by
  have hend : (∀ k' s', e ≠ .goOn k' s') → e.Leaves fun u => ListChange old u.discovered :=
    fun hgo => (discoverLines_keep_at_end hl hgo).mono fun u hu => hu ▸ h.listChange
  cases e with
  | goOn k' s' => exact (beforeLine_of_goOn h hl).listChange
  | _ => exact hend (by simp)

theorem listChange_of_exec_discover {s t : State} (hok : AppendOk s.line s)
    (h : exec .discover s = .next t) : ListChange s.discovered t.discovered := by
  obtain ⟨fuel, hp⟩ := perform_of_exec_next rfl h
  have hstart : BeforeLine s.discovered s.line s.started :=
    .inr ⟨rfl, hok.lo, hok.hi, hok.entry⟩
  exact runLines_induct (P := BeforeLine s.discovered) (Q := fun u => ListChange s.discovered u.discovered)
    (fun _ _ hu => hu.listChange) (fun _ _ _ _ => beforeLine_of_goOn)
    (fun _ _ _ hu hl => listChange_of_line hu hl) (fun _ _ _ _ _ hu hl => listChange_of_line hu hl)
    (fun _ _ _ _ hu hl => listChange_of_line hu hl) (fun _ _ _ hu hl => listChange_of_line hu hl)
    _ _ _ _ _ hstart hp

theorem listChange_of_exec {i : Instr} {s t : State} (hok : i = .discover → AppendOk s.line s)
    (h : exec i s = .next t) : ListChange s.discovered t.discovered := by
  by_cases hd : i = .discover
  · subst hd
    exact listChange_of_exec_discover (hok rfl) h
  · exact listChange_of_exec_ne_discover hd h

theorem listChange_of_illegalCommand {s t : State} (h : illegalCommand s = .next t) :
    ListChange s.discovered t.discovered := by
  obtain ⟨-, ht⟩ := inRole_eq_next.1 h
  cases ht
  exact .kept

/-! ### One step -/

theorem callsOk_of_safe {s : State} (hs : Safe s = true) : callsOk s s.ops = true := by
  simp only [Safe, Bool.and_eq_true] at hs
  grind

/-- In a safe state a `DISCOVER` called last stands at a line that fits its range. -/
theorem appendOk_of_safe {s : State} {c : Call} {later : List Call} (hs : Safe s = true)
    (ho : s.ops = c :: later) (hd : decode c.image = .ok .discover) : AppendOk c.line s := by
  have hc := callsOk_of_safe hs
  have hi : c.instr = some .discover := by simp only [Call.instr, hd]
  simp only [ho, callsOk, hi, Bool.and_eq_true] at hc
  obtain ⟨⟨⟨-, hline⟩, -⟩, -⟩ := hc
  exact appendOk_of_discoverLineOk hline

theorem loopInstr_ne_discover (s : State) : loopInstr s ≠ .discover := by
  unfold loopInstr
  split <;> nofun

/-- The state a step runs its operation from differs from `s` in the requests, the calls, the line and the
draws, which the list is not read from. -/
theorem listChange_of_step {s t : State} (hs : Safe s = true) (h : step s = .next t) :
    ListChange s.discovered t.discovered := by
  rcases fetch_cases s with ⟨-, hf⟩ | ⟨-, ⟨i, hi, hf⟩ | ⟨-, -, hf⟩⟩
  case inl =>
    rw [step_of_fetch_run hf] at h
    exact (listChange_of_exec (by simp) h :)
  case inr.inl =>
    rw [step_of_fetch_run hf] at h
    exact (listChange_of_exec (by rcases hi with ⟨rfl, -⟩ | ⟨rfl, -⟩ <;> simp) h :)
  case inr.inr =>
    rcases fetchMain_cases (s.drawEvent.2.raise s.drawEvent.1) with
      ⟨-, hm⟩ | ⟨c, later, ho, ⟨i, hi, hm⟩ | ⟨-, hm⟩⟩
    · rw [step_of_fetch_run (hf.trans hm)] at h
      exact (listChange_of_exec (fun hd => absurd hd (loopInstr_ne_discover _)) h :)
    · rw [step_of_fetch_run (hf.trans hm)] at h
      refine (listChange_of_exec (fun hd => ?_) h :)
      obtain ⟨lo, hi, entry⟩ := appendOk_of_safe hs ho (hd ▸ hi)
      exact ⟨lo, hi, entry⟩
    · rw [step, hf, hm] at h
      by_cases hcmd : c.image.fmt = .cmd
      · rw [if_pos hcmd] at h
        exact (listChange_of_illegalCommand h :)
      · rw [if_neg hcmd] at h
        cases h

theorem pollFlag_eq_zero_of_mem {s : State} {mn mx j : Nat} (h : BitVec.ofNat 10 j ∈ s.discovered) :
    s.pollFlag mn mx j = 0 := if_neg fun hj => hj.2.2 h

end Sys2Proof.Machine

namespace Sys2Proof.Proofs

open Sys2Proof.Machine

/-- Settles O47: a step keeps, empties or extends the list by one address; an address that is not listed
keeps it distinct, and one that is has flag 0. -/
theorem discoveredAddressesStayDistinct : Obligations.DiscoveredAddressesStayDistinct := by
  intro s t hs hnodup hstep
  have hc := listChange_of_step hs hstep
  generalize t.discovered = new at hc ⊢
  cases hc with
  | kept => exact .inl hnodup
  | emptied => exact .inl List.nodup_nil
  | appended mn hlo hhi =>
    by_cases hmem : BitVec.ofNat 10 mn ∈ s.discovered
    · exact .inr ⟨mn, hlo, hhi, pollFlag_eq_zero_of_mem hmem, rfl⟩
    · exact .inl (by simpa using hnodup.concat hmem)

/-- Settles O1: `RESET` leaves the one state `State.resetWith`, whose units hold their reset values. -/
theorem resetSetsEveryElement : Obligations.ResetSetsEveryElement := by
  intro s
  refine ⟨_, exec_reset s, rfl, rfl, chanRead_resetWith _ _ _ _, ?_⟩
  simp [State.resetWith, Controller.atReset, Device.atReset, Counters.atReset]

/-- Settles O51: the complement of a 9-bit value is 511 less that value, and 1 more stays below 1024. -/
theorem deviceAddressFromPins : Obligations.DeviceAddressFromPins := toNat_deviceAddress

end Sys2Proof.Proofs

/-! SUPPORT. The classes of a received character and the grounds on which a command word is illegal (spec
30_encoding.md R92, R100): what the decoder answers, what a step makes of it, and the obligations on them. -/

namespace Sys2Proof

/-! ### A received character word (R92) -/

theorem setWidth_eq_break_iff (w : BitVec 9) : (w.setWidth 32 : Word) = 0x100 ↔ w = 0x100 := by
  rw [← BitVec.toNat_inj, ← BitVec.toNat_inj, BitVec.toNat_setWidth_of_le (by decide)]
  rfl

theorem lowByte_setWidth (w : BitVec 9) : (w.setWidth 32 : Word).extractLsb' 0 8 = w.setWidth 8 := by
  rw [← BitVec.setWidth_eq_extractLsb' (by decide), BitVec.setWidth_setWidth_of_le _ (by decide)]

/-! ### An illegal command word (R100) -/

/-- The grounds of R100: a reserved OP, a nonzero reserved field, or a nonzero field the command does not
use. -/
def IllegalHeader (h : Word) : Prop :=
  (cmdOp h).toNat = 0 ∨ 9 ≤ (cmdOp h).toNat ∨ cmdReservedHigh h ≠ 0 ∨ cmdReservedLow h ≠ 0 ∨
    (cmdOp h ≠ 1 ∧ cmdD h ≠ 0) ∨ (4 ≤ (cmdOp h).toNat ∧ (cmdOp h).toNat ≤ 7 ∧ cmdA h ≠ 0)

/-- A command that decodes has an assigned OP, and its reserved and unused fields are zero. -/
theorem not_illegalHeader_of_decodeCommand {h : Word} {payload : List Word} {i : Instr}
    (hd : decodeCommand h payload = .ok i) : ¬IllegalHeader h := by
  have hset : cmdOp h ≠ 1 ↔ (cmdOp h).toNat ≠ 1 := BitVec.toNat_ne_iff_ne.symm
  unfold decodeCommand at hd
  unfold IllegalHeader
  rw [hset]
  split at hd
  case isTrue => cases hd
  case isFalse hreserved =>
    split at hd
    case h_1 hop => simp_all
    case h_9 => cases hd
    all_goals
      rename_i hop
      split at hd
      · cases hd
      · simp_all

/-- An illegal header is rejected, whatever payload comes with it. -/
theorem decode_of_illegalHeader {h : Word} (hh : IllegalHeader h) (payload : List Word) :
    ∃ e, decode ⟨.cmd, h :: payload, []⟩ = .error e := by
  cases hd : decode ⟨.cmd, h :: payload, []⟩ with
  | error e => exact ⟨e, rfl⟩
  | ok i => exact absurd hh (not_illegalHeader_of_decodeCommand hd)

end Sys2Proof

namespace Sys2Proof.Machine

theorem fetchMain_of_illegal {s : State} {c : Call} {later : List Call} {e : DecodeError}
    (ho : s.ops = c :: later) (hd : decode c.image = .error e) (hc : c.image.fmt = .cmd) :
    fetchMain s = .illegal { s with ops := later } := by
  simp only [fetchMain, ho, hd, hc, if_true]

theorem step_of_fetch_illegal {s t : State} (h : fetch s = .illegal t) : step s = illegalCommand t := by
  simp only [step, h]

theorem illegalCommand_of_controller {s : State} (hr : s.par.role = .controller) :
    illegalCommand s = .next (s.respond .err) := if_pos hr

end Sys2Proof.Machine

namespace Sys2Proof.Proofs

open Sys2Proof.Machine

/-- Settles O12: zero-extending a 9-bit word changes neither its value nor its low byte nor bit 8. -/
theorem rxCharWordsDecode : Obligations.RxCharWordsDecode := by
  intro w
  have hwidth : ¬512 ≤ (w.setWidth 32 : Word).toNat := by
    rw [BitVec.toNat_setWidth_of_le (by decide)]
    exact Nat.not_le.2 w.isLt
  have hbit : (w.setWidth 32 : Word).getLsbD 8 = w.getLsbD 8 := by simp
  have hdec : decode ⟨.rxchar, [w.setWidth 32], []⟩ = decodeRxChar (w.setWidth 32) := rfl
  simp only [hdec, decodeRxChar, if_neg hwidth, setWidth_eq_break_iff, hbit, lowByte_setWidth]
  split
  · rfl
  · split <;> rfl

/-- Settles O28: an illegal header is rejected by the decoder, and a rejected command answers `ERR`. -/
theorem illegalCommandsAnswerErr : Obligations.IllegalCommandsAnswerErr := by
  intro s h payload k later hr ht hp hq ho hh
  obtain ⟨e, hd⟩ := decode_of_illegalHeader hh payload
  have hf : fetch s = .illegal { s.drawEvent.2 with ops := later } :=
    (fetch_of_quiet ht hp hq).trans (fetchMain_of_illegal ho hd rfl)
  rw [step_of_fetch_illegal hf]
  exact illegalCommand_of_controller hr

end Sys2Proof.Proofs

/-! SUPPORT. Runs of a controller that nothing disturbs (spec 30_encoding.md R95, R96, 60_exceptions.md
R305): what each transmit operation that is called puts on the wire, the loops of `DATA_FRAME` and
`POLL_RANGE` over their slots, and the obligations on the two frames. -/

namespace Sys2Proof.Machine

/-! ### Runs of the machine -/

/-- Some number of steps leads from `s` to `t`. -/
def Reaches (s t : State) : Prop := ∃ n : Nat, Host.Core.run Sys2Proof.core n s = .next t

theorem run_succ (n : Nat) {s u : State} (h : step s = .next u) :
    Host.Core.run Sys2Proof.core (n + 1) s = Host.Core.run Sys2Proof.core n u := by
  have hs : Sys2Proof.core.step s = .next u := h
  simp only [Host.Core.run, hs]

theorem Reaches.of_step {s t : State} (h : step s = .next t) : Reaches s t := ⟨1, run_succ 0 h⟩

theorem run_add (m : Nat) {t : State} : ∀ (n : Nat) (s : State),
    Host.Core.run Sys2Proof.core n s = .next t →
    Host.Core.run Sys2Proof.core (n + m) s = Host.Core.run Sys2Proof.core m t
  | 0, s, h => by
    cases h
    rw [Nat.zero_add]
  | n + 1, s, h => by
    cases hs : step s with
    | next u =>
      rw [run_succ n hs] at h
      rw [Nat.succ_add, run_succ (n + m) hs]
      exact run_add m n u h
    | fault r | refused r =>
      have hc : Sys2Proof.core.step s = _ := hs
      simp only [Host.Core.run, hc] at h
      cases h

theorem Reaches.trans {s t u : State} (h : Reaches s t) (h' : Reaches t u) : Reaches s u := by
  obtain ⟨n, hn⟩ := h
  obtain ⟨m, hm⟩ := h'
  exact ⟨n + m, (run_add m n s hn).trans hm⟩

/-! ### One step of a called operation -/

/-- The state in which the lines of the operation called last go on: the draws of the boundary and of where
it stops are taken, and it is called no more. -/
def State.resumed (s : State) (later : List Call) : State :=
  { s with
    ops := later, line := 0
    env := { s.env with events := s.env.events.next.2, cut := s.env.cut.next.2 } }

/-- `i` is an operation of role Controller with these lines: its words decode to it, and to execute it is to
perform the lines. -/
structure Performs (i : Instr) (lines : Nat → State → LineEnd) (fuel : Nat) : Prop where
  decode_encode : decode (encode i) = .ok i
  exec_eq : ∀ s, exec i s = inRole .controller s (perform i lines fuel s)

/-- Undisturbed, a step runs the lines of the operation called last from the line that is next. -/
theorem Performs.step_eq {i : Instr} {lines : Nat → State → LineEnd} {fuel k : Nat} {s : State}
    {later : List Call} (hi : Performs i lines fuel) (hr : s.par.role = .controller)
    (hu : s.undisturbed = true) (ho : s.ops = ⟨encode i, k⟩ :: later) :
    step s = runLines i lines fuel none k (s.resumed later) := by
  simp only [State.undisturbed, Bool.and_eq_true, Bool.not_eq_true'] at hu
  obtain ⟨⟨⟨htick, hdrain⟩, hevents⟩, hcut⟩ := hu
  obtain ⟨hrun, -⟩ := Proofs.stepRunsDecodedInstruction s htick hdrain (Draw.all_next hevents).1
  rw [hrun _ later i ho hi.decode_encode, hi.exec_eq, inRole, if_pos hr, perform_of_runsFrom (k := k)]
  · rfl
  · simpa [State.runsFrom] using (Draw.all_next hcut).1

theorem byteStep_toNat (b : Byte) (f : Byte → Instr) : byteStep [b.toNat] f = .ok (f b) := by
  simp [byteStep, b.isLt]

theorem performs_sendBreak (sc : Byte) : Performs (.sendBreak sc) (sendBreakLines sc) shortRun :=
  ⟨byteStep_toNat sc .sendBreak, fun _ => rfl⟩

theorem performs_putSlot (b : Byte) : Performs (.putSlot b) (putSlotLines b) shortRun :=
  ⟨byteStep_toNat b .putSlot, fun _ => rfl⟩

theorem performs_releaseDe : Performs .releaseDe releaseDeLines shortRun := ⟨rfl, fun _ => rfl⟩

theorem performs_checkpoint : Performs .checkpoint checkpointLines shortRun := ⟨rfl, fun _ => rfl⟩

theorem performs_dataFrame : Performs .dataFrame dataFrameLines shortRun := ⟨rfl, fun _ => rfl⟩

theorem performs_pollRange (mn mx : Nat) : Performs (.pollRange mn mx) (pollRangeLines mn mx) shortRun :=
  ⟨rfl, fun _ => rfl⟩

/-! ### Quiet runs -/

/-- A controller that nothing disturbs, with a UART that is always idle and ready. -/
structure Calm (s : State) : Prop where
  role : s.par.role = .controller
  undisturbed : s.undisturbed = true
  uartReady : s.uartReady = true

theorem uartReady_iff {s : State} : s.uartReady = true ↔
    s.env.txEmpty.all id = true ∧ s.env.rxIdle.all id = true ∧ s.env.txReady.all id = true := by
  simp only [State.uartReady, Bool.and_eq_true, and_assoc]

/-- A step that takes its draws and raises no request ends calm. -/
theorem Calm.of_draws {s t : State} (hs : Calm s) (hpar : t.par = s.par)
    (htick : t.pendTick = s.pendTick) (hdrain : t.ctl.pendDrain = s.ctl.pendDrain)
    (hevents : t.env.events = s.env.events.next.2) (hcut : t.env.cut = s.env.cut.next.2)
    (huart : t.uartReady = true) : Calm t := by
  refine ⟨hpar ▸ hs.role, ?_, huart⟩
  have hu := hs.undisturbed
  simp only [State.undisturbed, Bool.and_eq_true] at hu ⊢
  obtain ⟨⟨hrequests, he⟩, hc⟩ := hu
  rw [htick, hdrain, hevents, hcut]
  exact ⟨⟨hrequests, (Draw.all_next he).2⟩, (Draw.all_next hc).2⟩

/-- A run that ends calm; it keeps the host silent if it was, and takes no received character. -/
structure QuietRun (s t : State) : Prop where
  reaches : Reaches s t
  calm : Calm t
  noCommands : s.noCommands = true → t.noCommands = true
  rx : t.env.rx = s.env.rx

theorem QuietRun.trans {s t u : State} (h : QuietRun s t) (h' : QuietRun t u) : QuietRun s u :=
  ⟨h.reaches.trans h'.reaches, h'.calm, h'.noCommands ∘ h.noCommands, h'.rx.trans h.rx⟩

/-- What a run leaves, its draws aside. -/
theorem QuietRun.exists_env {s t : State} {f : Env → State} (h : QuietRun s t) (ht : t = f t.env) :
    ∃ env, QuietRun s (f env) := ⟨t.env, ht ▸ h⟩

/-- A step whose lines take no draw and write no request and no parameter. -/
theorem Performs.quietRun {i : Instr} {lines : Nat → State → LineEnd} {fuel k : Nat} {s t : State}
    {later : List Call} (hi : Performs i lines fuel) (hs : Calm s) (ho : s.ops = ⟨encode i, k⟩ :: later)
    (h : runLines i lines fuel none k (s.resumed later) = .next t)
    (henv : t.env = (s.resumed later).env := by rfl) (hpar : t.par = s.par := by rfl)
    (htick : t.pendTick = s.pendTick := by rfl)
    (hdrain : t.ctl.pendDrain = s.ctl.pendDrain := by rfl) : QuietRun s t where
  reaches := .of_step ((hi.step_eq hs.role hs.undisturbed ho).trans h)
  calm := hs.of_draws hpar htick hdrain (by rw [henv]; rfl) (by rw [henv]; rfl)
    (by rw [State.uartReady, henv]; exact hs.uartReady)
  noCommands hc := by rw [State.noCommands, henv]; exact hc
  rx := by rw [henv]; rfl

/-! ### The operations called, each on the wire -/

/-- `SEND_BREAK` from line 3 on, `de` being written: the Break at the slow rate, then the start code. -/
theorem sendBreak_run_from_break (fuel : Nat) (sc : Byte) {s : State}
    (hready : s.env.txReady.next.1 = true) (hempty : s.env.txEmpty.next.1 = true)
    (hready' : s.env.txReady.next.2.next.1 = true) :
    runLines (.sendBreak sc) (sendBreakLines sc) (fuel + 5) none 3 s = .next { s with
      baud := .nominal
      env := { s.env with
        txEmpty := s.env.txEmpty.next.2, txReady := s.env.txReady.next.2.next.2 }
      out := { s.out with wire := s.out.wire ++ [.brk, .byte sc] } } := by
  refine Eq.trans (runLines_goOn rfl) ?_
  refine Eq.trans (runLines_goOn (uartPutLine_ready _ _ hready)) ?_
  refine Eq.trans (runLines_goOn (if_pos hempty)) ?_
  refine Eq.trans (runLines_goOn rfl) ?_
  refine Eq.trans (runLines_ret (uartPutLine_ready _ _ hready')) ?_
  simp [State.uartPut, State.emit, State.setBaud, State.drawTxReady, State.drawTxEmpty]

/-- `SEND_BREAK` on a ready UART (R121): `de` if it was 0, the Break, the start code. -/
theorem sendBreak_run (fuel : Nat) (sc : Byte) {s : State}
    (hempty : s.env.txEmpty.next.1 = true) (hidle : s.env.rxIdle.next.1 = true)
    (hready : s.env.txReady.next.1 = true) (hempty' : s.env.txEmpty.next.2.next.1 = true)
    (hready' : s.env.txReady.next.2.next.1 = true) :
    runLines (.sendBreak sc) (sendBreakLines sc) (fuel + 8) none 0 s = .next { s with
      de := true, baud := .nominal
      env := { s.env with
        txEmpty := s.env.txEmpty.next.2.next.2, rxIdle := s.env.rxIdle.next.2,
        txReady := s.env.txReady.next.2.next.2 }
      out := { s.out with wire :=
        s.out.wire ++ (if s.de then [] else [.de true]) ++ [.brk, .byte sc] } } := by
  have h0 : sendBreakLines sc 0 s = .goOn 1 s.drawTxEmpty.2.drawRxIdle.2 :=
    if_pos (Bool.and_eq_true_iff.2 ⟨hempty, hidle⟩)
  refine (runLines_goOn h0).trans ?_
  cases hde : s.de with
  | true =>
    refine Eq.trans (runLines_goOn (if_neg (by simp [hde]))) ?_
    refine Eq.trans (sendBreak_run_from_break (fuel + 1) sc hready hempty' hready') ?_
    simp [hde]
  | false =>
    refine Eq.trans (runLines_goOn (if_pos hde)) ?_
    refine Eq.trans (runLines_goOn rfl) ?_
    rw [setDe_eq]
    refine Eq.trans (sendBreak_run_from_break fuel sc hready hempty' hready') ?_
    simp [hde]

section
variable {s : State} {later : List Call}

theorem quietRun_sendBreak {sc : Byte} (hs : Calm s)
    (ho : s.ops = ⟨encode (.sendBreak sc), 0⟩ :: later) :
    ∃ env, QuietRun s { s with
      ops := later, line := 0, de := true, baud := .nominal, env := env
      out := { s.out with wire :=
        s.out.wire ++ (if s.de then [] else [.de true]) ++ [.brk, .byte sc] } } := by
  obtain ⟨htx, hrx, hready⟩ := uartReady_iff.1 hs.uartReady
  obtain ⟨htx₁, htx⟩ := Draw.all_next htx
  obtain ⟨htx₂, htx⟩ := Draw.all_next htx
  obtain ⟨hrx₁, hrx⟩ := Draw.all_next hrx
  obtain ⟨hready₁, hready⟩ := Draw.all_next hready
  obtain ⟨hready₂, hready⟩ := Draw.all_next hready
  have hrun := (performs_sendBreak sc).step_eq hs.role hs.undisturbed ho
  have hstep := hrun.trans (sendBreak_run 248 sc htx₁ hrx₁ hready₁ htx₂ hready₂)
  refine QuietRun.exists_env ⟨.of_step hstep, ?_, id, rfl⟩ rfl
  exact hs.of_draws rfl rfl rfl rfl rfl (uartReady_iff.2 ⟨htx, hrx, hready⟩)

theorem quietRun_putSlot {b : Byte} (hs : Calm s) (hb : s.baud = .nominal)
    (ho : s.ops = ⟨encode (.putSlot b), 0⟩ :: later) :
    ∃ env, QuietRun s { s with
      ops := later, line := 0, env := env
      out := { s.out with wire := s.out.wire ++ [.byte b] } } := by
  obtain ⟨htx, hrx, hready⟩ := uartReady_iff.1 hs.uartReady
  obtain ⟨hready₁, hready⟩ := Draw.all_next hready
  obtain ⟨hready₂, hready⟩ := Draw.all_next hready
  have hrun := (performs_putSlot b).step_eq hs.role hs.undisturbed ho
  have h1 : putSlotLines b 1 (s.resumed later).drawTxReady.2 =
      .ret ((s.resumed later).drawTxReady.2.drawTxReady.2.uartPut b) := uartPutLine_ready _ _ hready₂
  have hstep := hrun.trans <| Eq.trans (runLines_goOn (if_pos hready₁)) (runLines_ret h1)
  refine QuietRun.exists_env ⟨.of_step hstep, ?_, id, rfl⟩ (by rw [WireEvent.byte, ← hb]; rfl)
  exact hs.of_draws rfl rfl rfl rfl rfl (uartReady_iff.2 ⟨htx, hrx, hready⟩)

theorem quietRun_releaseDe (hs : Calm s) (hde : s.de = true)
    (ho : s.ops = ⟨encode .releaseDe, 0⟩ :: later) :
    ∃ env, QuietRun s { s with
      ops := later, line := 0, de := false, env := env
      out := { s.out with wire := s.out.wire ++ [.de false] } } := by
  obtain ⟨htx, hrx, hready⟩ := uartReady_iff.1 hs.uartReady
  obtain ⟨htx₁, htx⟩ := Draw.all_next htx
  have hset : (s.resumed later).drawTxEmpty.2.setDe false =
      State.emit { (s.resumed later).drawTxEmpty.2 with de := false } (.de false) :=
    if_neg (by simp [State.resumed, hde])
  have hrun := performs_releaseDe.step_eq hs.role hs.undisturbed ho
  have hstep := hrun.trans <| (runLines_goOn (if_pos htx₁)).trans (runLines_ret (congrArg _ hset))
  refine QuietRun.exists_env ⟨.of_step hstep, ?_, id, rfl⟩ rfl
  exact hs.of_draws rfl rfl rfl rfl rfl (uartReady_iff.2 ⟨htx, hrx, hready⟩)

theorem quietRun_checkpoint (hs : Calm s) (hc : s.noCommands = true)
    (ho : s.ops = ⟨encode .checkpoint, 0⟩ :: later) :
    ∃ env, QuietRun s { s with ops := later, line := 0, env := env } := by
  obtain ⟨hnone, hc'⟩ := Draw.all_next hc
  have hl : checkpointLines 0 (s.resumed later) = .ret (s.resumed later).drawPresent.2 :=
    if_neg (by simpa [State.resumed] using hnone)
  have hrun := performs_checkpoint.step_eq hs.role hs.undisturbed ho
  have hstep := hrun.trans (runLines_ret hl)
  refine QuietRun.exists_env ⟨.of_step hstep, ?_, fun _ => hc', rfl⟩ rfl
  exact hs.of_draws rfl rfl rfl rfl rfl hs.uartReady

end

/-! ### The slots of a data frame -/

/-- Positions count from 1, a list's places from 0. -/
theorem map_range'_one {α : Type} (f : Nat → α) (n : Nat) :
    (List.range' 1 n).map f = (List.range n).map fun k => f (k + 1) := by
  simp [List.range'_eq_map_range, Nat.add_comm 1]

section
variable {s : State} {later : List Call} {i k : Nat}

/-- `DATA_FRAME` at a line that leads to its test with slot `i`, `i <= maxDmxAddr`: the slot goes on the
wire (R150). -/
theorem quietRun_slot (hs : Calm s) (hb : s.baud = .nominal)
    (ho : s.ops = ⟨encode .dataFrame, k⟩ :: later)
    (hgo : dataFrameLines k (s.resumed later) = .goOn 2 ((s.resumed later).goto (.frame i)))
    (hi : i ≤ s.ctl.maxDmxAddr.toNat) (hmax : s.ctl.maxDmxAddr.toNat ≤ 512) :
    ∃ env, QuietRun s { s with
      ops := ⟨encode .dataFrame, 4⟩ :: later, line := 0, env := env
      ctl := { s.ctl with seq := .frame i }
      out := { s.out with wire := s.out.wire ++ [.byte (s.chanRead i)] } } := by
  have hslot : i < Config.nSlot := Nat.lt_succ_of_le (hi.trans hmax)
  have hcall := performs_dataFrame.quietRun hs ho <| Eq.trans (runLines_goOn hgo) <|
    Eq.trans (runLines_goOn (if_pos hi)) (runLines_call (if_pos hslot))
  obtain ⟨env, hsent⟩ := quietRun_putSlot hcall.calm hb rfl
  exact ⟨env, hcall.trans hsent⟩

/-- After a slot, its checkpoint takes no command. -/
theorem quietRun_slotCheckpoint (hs : Calm s) (hc : s.noCommands = true)
    (ho : s.ops = ⟨encode .dataFrame, 4⟩ :: later) :
    ∃ env, QuietRun s { s with ops := ⟨encode .dataFrame, 5⟩ :: later, line := 0, env := env } := by
  have hcall := performs_dataFrame.quietRun hs ho (runLines_call rfl)
  obtain ⟨env, hdone⟩ := quietRun_checkpoint hcall.calm (hcall.noCommands hc) rfl
  exact ⟨env, hcall.trans hdone⟩

/-- The slots from `i` to `maxDmxAddr`, `n` of them, and the frame's end. -/
theorem quietRun_slots {later : List Call} (n : Nat) : ∀ {s : State} {i k : Nat}, Calm s →
    s.noCommands = true → s.baud = .nominal → s.ops = ⟨encode .dataFrame, k⟩ :: later →
    dataFrameLines k (s.resumed later) = .goOn 2 ((s.resumed later).goto (.frame i)) →
    i + n = s.ctl.maxDmxAddr.toNat + 1 → s.ctl.maxDmxAddr.toNat ≤ 512 →
    ∃ env, QuietRun s { s with
      ops := later, line := 0, env := env
      ctl := { s.ctl with seq := .boundary }
      out := { s.out with wire :=
        s.out.wire ++ (List.range' i n).map fun j => .byte (s.chanRead j) } } := by
  induction n with
  | zero =>
    intro s i k hs _ _ ho hgo hn _
    have hlast : ¬i ≤ s.ctl.maxDmxAddr.toNat := by omega
    simp only [List.range'_zero, List.map_nil, List.append_nil]
    exact ⟨_, performs_dataFrame.quietRun hs ho <|
      Eq.trans (runLines_goOn hgo) (runLines_ret (if_neg hlast))⟩
  | succ n ih =>
    intro s i k hs hc hb ho hgo hn hmax
    obtain ⟨_, hsent⟩ := quietRun_slot hs hb ho hgo (by omega) hmax
    obtain ⟨_, hcheck⟩ := quietRun_slotCheckpoint hsent.calm (hsent.noCommands hc) rfl
    have hslot := hsent.trans hcheck
    have hn' : i + 1 + n = s.ctl.maxDmxAddr.toNat + 1 := by omega
    obtain ⟨env, hrest⟩ := ih hslot.calm (hslot.noCommands hc) hb rfl rfl hn' hmax
    simp only [List.range'_succ, List.map_cons]
    rw [List.append_cons]
    exact ⟨env, hslot.trans hrest⟩

end

/-! ### The flags of a poll -/

section
variable {later : List Call} {mn mx : Nat}

/-- `POLL_RANGE` at a line that leads to the flag of position `j`: the flag goes on the wire (R190, R191). -/
theorem quietRun_flag {s : State} {j k : Nat} (hs : Calm s) (hb : s.baud = .nominal)
    (ho : s.ops = ⟨encode (.pollRange mn mx), k⟩ :: later)
    (hgo : pollRangeLines mn mx k (s.resumed later) =
      .goOn 2 ((s.resumed later).goto (.poll mn mx (.bitmap j)))) :
    ∃ env, QuietRun s { s with
      ops := ⟨encode (.pollRange mn mx), 3⟩ :: later, line := 0, env := env
      ctl := { s.ctl with seq := .poll mn mx (.bitmap j) }
      out := { s.out with wire := s.out.wire ++ [.byte (s.pollFlag mn mx j)] } } := by
  have hcall := (performs_pollRange mn mx).quietRun hs ho <|
    Eq.trans (runLines_goOn hgo) (runLines_call rfl)
  obtain ⟨env, hsent⟩ := quietRun_putSlot hcall.calm hb rfl
  exact ⟨env, hcall.trans hsent⟩

/-- The flags of the positions from `j` to 512, `n + 1` of them, and the release called. -/
theorem quietRun_flags (n : Nat) : ∀ {s : State} {j k : Nat}, Calm s → s.baud = .nominal →
    s.ops = ⟨encode (.pollRange mn mx), k⟩ :: later →
    pollRangeLines mn mx k (s.resumed later) =
      .goOn 2 ((s.resumed later).goto (.poll mn mx (.bitmap j))) →
    j + n = 512 →
    ∃ env, QuietRun s { s with
      ops := ⟨encode .releaseDe, 0⟩ :: ⟨encode (.pollRange mn mx), 5⟩ :: later, line := 0, env := env
      ctl := { s.ctl with seq := .poll mn mx .release }
      out := { s.out with wire :=
        s.out.wire ++ (List.range' j (n + 1)).map fun j => .byte (s.pollFlag mn mx j) } } := by
  induction n with
  | zero =>
    intro s j k hs hb ho hgo hj
    have hlast : ¬j < Config.nAddr := Nat.not_lt.2 hj.ge
    obtain ⟨_, hflag⟩ := quietRun_flag hs hb ho hgo
    have hrelease := (performs_pollRange mn mx).quietRun hflag.calm rfl <|
      Eq.trans (runLines_goOn (if_neg hlast)) (runLines_call rfl)
    exact ⟨_, hflag.trans hrelease⟩
  | succ n ih =>
    intro s j k hs hb ho hgo hj
    have hmore : j < Config.nAddr := Nat.lt_of_lt_of_eq (by omega) hj
    obtain ⟨_, hflag⟩ := quietRun_flag hs hb ho hgo
    obtain ⟨env, hrest⟩ := ih (j := j + 1) hflag.calm hb rfl (if_pos hmore) (by omega)
    simp only [List.range'_succ (n := n + 1), List.map_cons]
    rw [List.append_cons]
    exact ⟨env, hflag.trans hrest⟩

end

end Sys2Proof.Machine

namespace Sys2Proof.Proofs

open Sys2Proof.Machine

/-- Settles O38: the preamble is called and sent; then the slots, by induction on how many are left. -/
theorem dataFrameOnTheWire : Obligations.DataFrameOnTheWire := by
  intro s later hr hu huart hc _ hmax ho
  have hs : Calm s := ⟨hr, hu, huart⟩
  have hcall := performs_dataFrame.quietRun hs ho (runLines_call rfl)
  obtain ⟨_, hbreak⟩ := quietRun_sendBreak hcall.calm rfl
  have hpreamble := hcall.trans hbreak
  obtain ⟨_, hslots⟩ := quietRun_slots _ hbreak.calm (hpreamble.noCommands hc) rfl rfl rfl
    (Nat.add_comm 1 _) hmax
  obtain ⟨n, hn⟩ := (hpreamble.trans hslots).reaches
  refine ⟨n, _, hn, ?_, rfl, rfl, rfl, rfl, rfl⟩
  exact congrArg _ (map_range'_one (fun j => WireEvent.byte (s.chanRead j)) _)

/-- Settles O43: the preamble is called and sent; then the flags, by induction on how many are left; then
the release. -/
theorem pollFrameOnTheWire : Obligations.PollFrameOnTheWire := by
  intro s mn mx later hr hu huart _ ho
  have hs : Calm s := ⟨hr, hu, huart⟩
  have hcall := (performs_pollRange mn mx).quietRun hs ho (runLines_call rfl)
  obtain ⟨_, hbreak⟩ := quietRun_sendBreak hcall.calm rfl
  obtain ⟨_, hflags⟩ := quietRun_flags 511 hbreak.calm rfl rfl rfl rfl
  obtain ⟨_, hrelease⟩ := quietRun_releaseDe hflags.calm rfl rfl
  have hall := ((hcall.trans hbreak).trans hflags).trans hrelease
  obtain ⟨n, hn⟩ := hall.reaches
  refine ⟨n, _, hn, ?_, rfl, rfl, rfl, rfl, hall.rx⟩
  rw [← map_range'_one fun j => WireEvent.byte (s.pollFlag mn mx j)]
  rfl

end Sys2Proof.Proofs

/-! SUPPORT. The framer's operations one at a time (spec 40_framer.md R121 to R124): what each does up to its
waits and from there on, and the obligations on them. -/

namespace Sys2Proof.Machine

/-! ### The lines an operation executes -/

/-- Executed in its role and not stopped, an operation runs its lines from the one that is next. -/
theorem Performs.exec_of_runsFrom {i : Instr} {lines : Nat → State → LineEnd} {fuel k : Nat} {s : State}
    (hi : Performs i lines fuel) (hr : s.par.role = .controller) (h : s.runsFrom k = true) :
    exec i s = runLines i lines fuel none k s.started := by
  rw [hi.exec_eq, inRole_of_role _ hr, perform_of_runsFrom h]

/-- `BARE_BREAK` is the device's, so `Performs` does not speak of it. -/
theorem exec_bareBreak_of_runsFrom {k : Nat} {s : State} (hr : s.par.role = .device)
    (h : s.runsFrom k = true) :
    exec .bareBreak s = runLines .bareBreak bareBreakLines shortRun none k s.started :=
  (inRole_of_role _ hr).trans (perform_of_runsFrom h)

/-! ### The two kinds of wait -/

section
variable {i : Instr} {lines : Nat → State → LineEnd} {fuel k k' : Nat} {s s' : State} {c : Bool} {b : Byte}
  {next : State → LineEnd}

theorem runLines_holdUntil_goOn (hl : lines k s = holdUntil c k' s') (hc : c = true) :
    runLines i lines (fuel + 1) none k s = runLines i lines fuel none k' s' :=
  runLines_goOn (hl.trans (if_pos hc))

theorem runLines_holdUntil_hold {t : State} (hl : lines k s = holdUntil c k' s') (hc : c = false)
    (ht : t = s'.callAt i k := by rfl) : runLines i lines (fuel + 1) none k s = .next t :=
  ht ▸ runLines_hold (hl.trans (if_neg (Bool.eq_false_iff.1 hc)))

theorem runLines_uartPut_goOn (hl : lines k s = uartPutLine b (.goOn k') s)
    (h : s.env.txReady.next.1 = true) :
    runLines i lines (fuel + 1) none k s = runLines i lines fuel none k' (s.drawTxReady.2.uartPut b) :=
  runLines_goOn (hl.trans (uartPutLine_ready b _ h))

theorem runLines_uartPut_ret (hl : lines k s = uartPutLine b .ret s) (h : s.env.txReady.next.1 = true) :
    runLines i lines (fuel + 1) none k s = .next (s.drawTxReady.2.uartPut b) :=
  runLines_ret (hl.trans (uartPutLine_ready b _ h))

theorem runLines_uartPut_hold (hl : lines k s = uartPutLine b next s) (h : s.env.txReady.next.1 = false) :
    runLines i lines (fuel + 1) none k s = .next (s.drawTxReady.2.callAt i k) :=
  runLines_hold (hl.trans (uartPutLine_busy b _ h))

end

/-- Releasing the line puts `DE(0)` on the wire only if it was driven (R93). -/
theorem setDe_false_eq (s : State) : s.setDe false = { s with
    de := false
    out := { s.out with wire := s.out.wire ++ if s.de then [.de false] else [] } } := by
  rw [setDe_eq]
  cases s.de <;> rfl

/-! ### `SEND_BREAK` (R121) -/

section
variable (sc : Byte) {s : State}

/-- On an idle line: up to the Break, with `de` written and the slow rate set. How many lines are left for
what follows turns on whether `de` was 1. -/
theorem sendBreak_run_to_break (fuel : Nat) (hidle : (s.env.txEmpty.next.1 && s.env.rxIdle.next.1) = true) :
    ∃ extra, runLines (.sendBreak sc) (sendBreakLines sc) (fuel + 4) none 0 s =
      runLines (.sendBreak sc) (sendBreakLines sc) (extra + fuel) none 4 { s with
        de := true, baud := .slow
        env := { s.env with txEmpty := s.env.txEmpty.next.2, rxIdle := s.env.rxIdle.next.2 }
        out := { s.out with wire := s.out.wire ++ if s.de then [] else [.de true] } } := by
  cases hde : s.de with
  | true =>
    refine ⟨1, Eq.trans (runLines_holdUntil_goOn rfl hidle) ?_⟩
    refine Eq.trans (runLines_goOn (if_neg (by simp [hde]))) <| Eq.trans (runLines_goOn rfl) ?_
    simp [Nat.add_comm 1, State.setBaud, State.drawTxEmpty, State.drawRxIdle, hde]
  | false =>
    refine ⟨0, Eq.trans (runLines_holdUntil_goOn rfl hidle) ?_⟩
    refine Eq.trans (runLines_goOn (if_pos hde)) <| Eq.trans (runLines_goOn rfl) <|
      Eq.trans (runLines_goOn rfl) ?_
    simp [setDe_eq, State.setBaud, State.drawTxEmpty, State.drawRxIdle, hde]

/-- The Break shifted out: on to the start code, at the nominal rate. -/
theorem sendBreak_run_to_startCode (fuel : Nat) (hempty : s.env.txEmpty.next.1 = true) :
    runLines (.sendBreak sc) (sendBreakLines sc) (fuel + 2) none 5 s =
      runLines (.sendBreak sc) (sendBreakLines sc) fuel none 7 (s.drawTxEmpty.2.setBaud .nominal) :=
  Eq.trans (runLines_holdUntil_goOn rfl hempty) (runLines_goOn rfl)

end

/-! ### `BARE_BREAK` (R124) -/

section
variable {s : State}

/-- Up to the Break, with `de` written and the slow rate set. -/
theorem bareBreak_run_to_break (fuel : Nat) :
    runLines .bareBreak bareBreakLines (fuel + 2) none 0 s =
      runLines .bareBreak bareBreakLines fuel none 2 { s with
        de := true, baud := .slow
        out := { s.out with wire := s.out.wire ++ if s.de then [] else [.de true] } } := by
  refine Eq.trans (runLines_goOn rfl) <| Eq.trans (runLines_goOn rfl) ?_
  rw [setDe_eq]
  rfl

/-- The Break shifted out: the nominal rate again and the line released. -/
theorem bareBreak_run_after_break (fuel : Nat) (hempty : s.env.txEmpty.next.1 = true) :
    runLines .bareBreak bareBreakLines (fuel + 3) none 3 s = .next { s with
      de := false, baud := .nominal
      env := { s.env with txEmpty := s.env.txEmpty.next.2 }
      out := { s.out with wire := s.out.wire ++ if s.de then [.de false] else [] } } := by
  refine Eq.trans (runLines_holdUntil_goOn rfl hempty) <| Eq.trans (runLines_goOn rfl) <|
    Eq.trans (runLines_ret rfl) ?_
  rw [setDe_false_eq]
  rfl

end

end Sys2Proof.Machine

namespace Sys2Proof.Proofs

open Sys2Proof.Machine

/-- Settles O34: from the first line up to the Break, from there to the start code, and at each wait either
the hold or the way on. -/
theorem sendBreakSendsOnePreamble : Obligations.SendBreakSendsOnePreamble := by
  intro s sc hr
  have hexec {k : Nat} (hk : s.runsFrom k = true) := (performs_sendBreak sc).exec_of_runsFrom hr hk
  refine ⟨fun hk hidle hready hempty => ?preamble, fun hk hidle => ?lineBusy,
    fun hk hidle hbusy => ?breakBusy, fun hk hidle hready hempty => ?breakShifting,
    fun k hline hk hbusy => ?characterBusy, fun hk hempty hready => ?fromBreak,
    fun hk hempty => ?stillShifting, fun hk hempty hbusy => ?startCodeBusy,
    fun hk hempty hready => ?startCode, fun hk hready => ?fromStartCode⟩
  all_goals refine (hexec hk).trans ?_
  case preamble =>
    obtain ⟨hidle₁, hidle₂⟩ := Bool.and_eq_true_iff.1 hidle
    obtain ⟨hready₁, hready₂⟩ := Bool.and_eq_true_iff.1 hready
    exact sendBreak_run 248 sc hidle₁ hidle₂ hready₁ hempty hready₂
  case lineBusy => exact runLines_holdUntil_hold rfl hidle
  case breakBusy =>
    obtain ⟨extra, hrun⟩ := sendBreak_run_to_break sc (s := s.started) 252 hidle
    exact hrun.trans (runLines_uartPut_hold rfl hbusy)
  case breakShifting =>
    obtain ⟨extra, hrun⟩ := sendBreak_run_to_break sc (s := s.started) 252 hidle
    exact hrun.trans <| Eq.trans (runLines_uartPut_goOn rfl hready) <| runLines_holdUntil_hold rfl hempty
  case characterBusy =>
    obtain rfl | rfl := hline
    all_goals exact runLines_uartPut_hold rfl hbusy
  case fromBreak =>
    obtain ⟨hready₁, hready₂⟩ := Bool.and_eq_true_iff.1 hready
    refine Eq.trans (runLines_uartPut_goOn rfl hready₁) <|
      Eq.trans (sendBreak_run_to_startCode sc 253 hempty) <|
      Eq.trans (runLines_uartPut_ret rfl hready₂) ?_
    simp [State.uartPut, State.emit, State.setBaud, State.drawTxReady, State.drawTxEmpty]
  case stillShifting => exact runLines_holdUntil_hold rfl hempty
  case startCodeBusy =>
    exact Eq.trans (sendBreak_run_to_startCode sc 254 hempty) (runLines_uartPut_hold rfl hbusy)
  case startCode =>
    exact Eq.trans (sendBreak_run_to_startCode sc 254 hempty) (runLines_uartPut_ret rfl hready)
  case fromStartCode => exact runLines_uartPut_ret rfl hready

/-- Settles O35: each wait of the two operations ends in its hold or leads to the operation's last line. -/
theorem slotAndReleaseActOnTheLine : Obligations.SlotAndReleaseActOnTheLine := by
  intro s hr
  have hput {k : Nat} (b : Byte) (hk : s.runsFrom k = true) := (performs_putSlot b).exec_of_runsFrom hr hk
  have hrelease (hk : s.runsFrom 0 = true) := performs_releaseDe.exec_of_runsFrom hr hk
  refine ⟨fun b hk hready hready' => (hput b hk).trans ?put,
    fun b hk hready hbusy => (hput b hk).trans ?putBusy,
    fun b k hline hk hbusy => (hput b hk).trans ?waitBusy,
    fun b hk hready => (hput b hk).trans ?putGoesOn,
    fun hk hempty => (hrelease hk).trans ?release, fun hk hempty => (hrelease hk).trans ?releaseHolds⟩
  case put =>
    exact Eq.trans (runLines_holdUntil_goOn rfl hready) (runLines_uartPut_ret rfl hready')
  case putBusy =>
    exact Eq.trans (runLines_holdUntil_goOn rfl hready) (runLines_uartPut_hold rfl hbusy)
  case waitBusy =>
    obtain rfl | rfl := hline
    · exact runLines_holdUntil_hold rfl hbusy
    · exact runLines_uartPut_hold rfl hbusy
  case putGoesOn => exact runLines_uartPut_ret rfl hready
  case release =>
    refine Eq.trans (runLines_holdUntil_goOn rfl hempty) <| Eq.trans (runLines_ret rfl) ?_
    rw [setDe_false_eq]
    rfl
  case releaseHolds => exact runLines_holdUntil_hold rfl hempty

/-- Settles O36: up to the Break, and at each of its two waits either the hold or the way on to the
release. -/
theorem bareBreakAnswersThePoll : Obligations.BareBreakAnswersThePoll := by
  intro s hr
  refine ⟨fun hk hready hempty => ?answer, fun hk hbusy => ?breakBusy,
    fun hk hready hempty => ?breakShifting, fun hk hbusy => ?stillBusy,
    fun hk hready hempty => ?fromBreak, fun hk hempty => ?shifted, fun hk hempty => ?stillShifting⟩
  all_goals refine (exec_bareBreak_of_runsFrom hr hk).trans ?_
  case answer =>
    refine Eq.trans (bareBreak_run_to_break 254) <| Eq.trans (runLines_uartPut_goOn rfl hready) <|
      Eq.trans (bareBreak_run_after_break 250 hempty) ?_
    simp only [State.uartPut, State.emit, State.drawTxReady, List.append_assoc]
    rfl
  case breakBusy =>
    exact Eq.trans (bareBreak_run_to_break 254) (runLines_uartPut_hold rfl hbusy)
  case breakShifting =>
    exact Eq.trans (bareBreak_run_to_break 254) <| Eq.trans (runLines_uartPut_goOn rfl hready) <|
      runLines_holdUntil_hold rfl hempty
  case stillBusy => exact runLines_uartPut_hold rfl hbusy
  case fromBreak =>
    exact Eq.trans (runLines_uartPut_goOn rfl hready) (bareBreak_run_after_break 252 hempty)
  case shifted => exact bareBreak_run_after_break 253 hempty
  case stillShifting => exact runLines_holdUntil_hold rfl hempty

end Sys2Proof.Proofs

/-! SUPPORT. The controller's commands and its sequencer (spec 41_controller.md R150 to R152, R160 to R166):
what a run of their lines leaves, and the obligations on them. -/

namespace Sys2Proof.Machine

/-! ### The lines an operation executes -/

/-- The commands have no `Performs` of their own: it also asks that their words decode, which no run of the
lines needs. -/
theorem exec_of_inRole_perform {r : Role} {i : Instr} {lines : Nat → State → LineEnd} {fuel k : Nat}
    {s : State} (hi : exec i s = inRole r s (perform i lines fuel s)) (hr : s.par.role = r)
    (h : s.runsFrom k = true) : exec i s = runLines i lines fuel none k s.started := by
  rw [hi, inRole_of_role _ hr, perform_of_runsFrom h]

/-- What a call leaves, written out: the operation called before the one that called it. -/
theorem runLines_call_eq {i j : Instr} {lines : Nat → State → LineEnd} {fuel k k' : Nat} {s s' t : State}
    (h : lines k s = .call j k' s')
    (ht : t = { s' with ops := ⟨encode j, 0⟩ :: ⟨encode i, k'⟩ :: s'.ops } := by rfl) :
    runLines i lines (fuel + 1) none k s = .next t :=
  ht ▸ runLines_call h

/-! ### The addressed commands (R101) -/

theorem validSlot_iff {a : Addr} : validSlot a = true ↔ 1 ≤ a.toNat ∧ a.toNat ≤ 512 := by
  simp only [validSlot, Bool.and_eq_true, decide_eq_true_eq]
  rfl

section
variable {a : Addr} {s : State}

/-- `SET`, `GET` and `MAX` test their address first; one out of range is answered and nothing else is done. -/
theorem runLines_of_invalidSlot {i : Instr} {lines : Nat → State → LineEnd} {k : Nat} (fuel : Nat)
    (htest : lines 0 s = branch (validSlot a = true) 1 k s) (herr : lines k s = .ret (s.respond .err))
    (ha : ¬(1 ≤ a.toNat ∧ a.toNat ≤ 512)) :
    runLines i lines (fuel + 2) none 0 s = .next (s.respond .err) :=
  (runLines_goOn (htest.trans (if_neg (mt validSlot_iff.1 ha)))).trans (runLines_ret herr)

variable (ha : 1 ≤ a.toNat ∧ a.toNat ≤ 512) (fuel : Nat)
include ha

theorem set_run (d : Byte) : runLines (.cmdSet a d) (setLines a d) (fuel + 3) none 0 s =
    .next ((s.chanWrite a.toNat d).respond .ok) :=
  Eq.trans (runLines_goOn (if_pos (validSlot_iff.2 ha))) <| Eq.trans (runLines_goOn rfl) (runLines_ret rfl)

theorem get_run : runLines (.cmdGet a) (getLines a) (fuel + 2) none 0 s =
    .next (s.respond (.val (s.chanRead a.toNat))) :=
  Eq.trans (runLines_goOn (if_pos (validSlot_iff.2 ha))) (runLines_ret rfl)

theorem max_run : runLines (.cmdMax a) (maxLines a) (fuel + 3) none 0 s =
    .next (State.respond { s with ctl := { s.ctl with maxDmxAddr := a } } .ok) :=
  Eq.trans (runLines_goOn (if_pos (validSlot_iff.2 ha))) <| Eq.trans (runLines_goOn rfl) (runLines_ret rfl)

end

/-- `ON` and `OFF` (R163, R164). -/
theorem output_run {i : Instr} (fuel : Nat) (v : Bool) (s : State) :
    runLines i (outputLines v) (fuel + 2) none 0 s =
      .next (State.respond { s with ctl := { s.ctl with outEn := v } } .ok) :=
  Eq.trans (runLines_goOn rfl) (runLines_ret rfl)

/-! ### `CHECKPOINT` (R151) -/

section
variable {s : State}

theorem checkpointLines_of_present {h : Word} {payload : List Word} (k : Nat)
    (hpresent : s.env.present.next.1 = true)
    (hlen : payload.length = if cmdOp h = 8 then ((cmdA h).toNat + 3) / 4 else 0)
    (hwords : s.env.cmd.take (payload.length + 1) = h :: payload) :
    checkpointLines k s = .last ⟨.cmd, h :: payload, []⟩ { s with
      env := { s.env with
        present := s.env.present.next.2, cmd := s.env.cmd.drop (payload.length + 1) } } := by
  have hcommand : payload.length + 1 = commandLength h := by
    rw [hlen, commandLength, payloadWords]
    split
    · exact Nat.add_comm _ 1
    · rfl
  have hlast : checkpointLines k s = .last ⟨.cmd, s.env.cmd.take (nextLength s.env.cmd), []⟩ { s with
      env := { s.env with
        present := s.env.present.next.2, cmd := s.env.cmd.drop (nextLength s.env.cmd) } } :=
    if_pos hpresent
  rw [hlast, take_nextLength hwords hcommand, hwords]

theorem checkpointLines_of_not_present (k : Nat) (hpresent : s.env.present.next.1 = false) :
    checkpointLines k s = .ret s.drawPresent.2 :=
  if_neg (Bool.eq_false_iff.1 hpresent)

end

/-! ### `DATA_FRAME` (R150) -/

section
variable {s : State} {i k : Nat}

/-- The line after a slot's checkpoint: `i <- i + 1`. -/
theorem dataFrameLines_nextSlot (hseq : s.ctl.seq = .frame i) :
    dataFrameLines 5 s = .goOn 2 (s.goto (.frame (i + 1))) := by
  simp only [dataFrameLines, hseq, SeqPos.slot]

/-- From a line that leads to the test with slot `i`, `i <= maxDmxAddr`: the slot is sent, as it is now. -/
theorem dataFrame_run_to_slot (fuel : Nat) (hgo : dataFrameLines k s = .goOn 2 (s.goto (.frame i)))
    (hmax : i ≤ s.ctl.maxDmxAddr.toNat) (hslot : i < Config.nSlot) :
    runLines .dataFrame dataFrameLines (fuel + 3) none k s = .next { s with
      ctl := { s.ctl with seq := .frame i }
      ops := ⟨encode (.putSlot (s.chanRead i)), 0⟩ :: ⟨encode .dataFrame, 4⟩ :: s.ops } :=
  Eq.trans (runLines_goOn hgo) <| Eq.trans (runLines_goOn (if_pos hmax)) (runLines_call_eq (if_pos hslot))

/-- From such a line with `i` past `maxDmxAddr`: the frame ends. -/
theorem dataFrame_run_to_end (fuel : Nat) (hgo : dataFrameLines k s = .goOn 2 (s.goto (.frame i)))
    (hmax : s.ctl.maxDmxAddr.toNat < i) :
    runLines .dataFrame dataFrameLines (fuel + 2) none k s = .next (s.goto .boundary) :=
  Eq.trans (runLines_goOn hgo) (runLines_ret (if_neg (Nat.not_le_of_lt hmax)))

end

/-! ### `CYCLE` (R152) -/

theorem performs_cycle : Performs .cycle cycleLines shortRun := ⟨rfl, fun _ => rfl⟩

section
variable {s : State}

/-- The start of the loop: the checkpoint, at `Boundary`. -/
theorem cycle_run_to_checkpoint (fuel : Nat) : runLines .cycle cycleLines (fuel + 1) none 0 s =
    .next { s with
      ctl := { s.ctl with seq := .boundary }
      ops := ⟨encode .checkpoint, 0⟩ :: ⟨encode .cycle, 1⟩ :: s.ops } := runLines_call_eq rfl

/-- From the output test on, with the output on: a data frame, after which the loop begins again. -/
theorem cycle_run_of_outEn (fuel : Nat) (hout : s.ctl.outEn = true) :
    runLines .cycle cycleLines (fuel + 2) none 5 s = .next { s with
      ops := ⟨encode .dataFrame, 0⟩ :: ⟨encode .cycle, 0⟩ :: s.ops } :=
  Eq.trans (runLines_goOn (if_pos hout)) (runLines_call_eq rfl)

/-- With the output off: the loop from its start. -/
theorem cycle_run_of_not_outEn (fuel : Nat) (hout : s.ctl.outEn = false) :
    runLines .cycle cycleLines (fuel + 2) none 5 s = .next { s with
      ctl := { s.ctl with seq := .boundary }
      ops := ⟨encode .checkpoint, 0⟩ :: ⟨encode .cycle, 1⟩ :: s.ops } :=
  Eq.trans (runLines_goOn (if_neg (Bool.eq_false_iff.1 hout))) (cycle_run_to_checkpoint fuel)

/-- With no run of `DISCOVER` pending the discovery test leads to the output test. -/
theorem cycle_run_of_not_discPending (fuel : Nat) (hdisc : s.ctl.discPending = false) :
    runLines .cycle cycleLines (fuel + 1) none 1 s = runLines .cycle cycleLines fuel none 5 s :=
  runLines_goOn (if_neg (Bool.eq_false_iff.1 hdisc))

end

end Sys2Proof.Machine

namespace Sys2Proof.Proofs

open Sys2Proof.Machine

/-- Settles O26: the run of `CLEAR` from slot 0. -/
theorem clearZeroesEverySlot : Obligations.ClearZeroesEverySlot := by
  intro s hr hk
  obtain ⟨t, hrun, hchan, ht⟩ := clear_run Config.nSlot 0 s.started rfl
  refine ⟨t, (exec_of_inRole_perform rfl hr hk).trans hrun, fun i => (hchan i).trans ?_, ht⟩
  simp [Config.nSlot, Nat.lt_succ_iff]

/-- Settles O39: its one line, with a command of as many words as the header tells, and without one. -/
theorem checkpointTakesOneCommand : Obligations.CheckpointTakesOneCommand := by
  intro s hr hk
  have hexec := performs_checkpoint.exec_of_runsFrom hr hk
  refine ⟨fun h payload hpresent hlen hwords => hexec.trans ?command,
    fun hpresent => hexec.trans ?noCommand⟩
  case command => exact runLines_last (checkpointLines_of_present (s := s.started) 0 hpresent hlen hwords)
  case noCommand => exact runLines_ret (checkpointLines_of_not_present 0 hpresent)

/-- Settles O22: the address is in range, and the slot is written, or it is not. -/
theorem setWritesItsSlot : Obligations.SetWritesItsSlot := by
  intro s a d hr hk
  have hexec : exec (.cmdSet a d) s = _ := exec_of_inRole_perform rfl hr hk
  by_cases ha : 1 ≤ a.toNat ∧ a.toNat ≤ 512
  · exact ⟨_, hexec.trans (set_run ha 253 d),
      fun _ => ⟨fun i => chanRead_chanWrite s.started a.toNat i d, rfl⟩, fun h => absurd ha h, rfl⟩
  · exact ⟨_, hexec.trans (runLines_of_invalidSlot 254 rfl rfl ha),
      fun h => absurd h ha, fun _ => ⟨rfl, rfl⟩, rfl⟩

/-- Settles O24: the address is in range, and the slot is the answer, or it is not. -/
theorem getAnswersTheSlot : Obligations.GetAnswersTheSlot := by
  intro s a hr hk
  refine (exec_of_inRole_perform rfl hr hk).trans ?_
  by_cases ha : 1 ≤ a.toNat ∧ a.toNat ≤ 512
  · rw [if_pos ha]
    exact get_run ha 254
  · rw [if_neg ha]
    exact runLines_of_invalidSlot 254 rfl rfl ha

/-- Settles O25: each command's run, `MAX` in range and out of it. -/
theorem registerCommandsWriteTheirRegister : Obligations.RegisterCommandsWriteTheirRegister := by
  intro s hr hk
  refine ⟨fun a h1 h512 => ?max, fun a ha => ?maxOutOfRange, ?on, ?off, ?poll⟩
  all_goals refine (exec_of_inRole_perform rfl hr hk).trans ?_
  case max => exact max_run ⟨h1, h512⟩ 253
  case maxOutOfRange => exact runLines_of_invalidSlot 254 rfl rfl ha
  case on => exact output_run 254 true s.started
  case off => exact output_run 254 false s.started
  case poll => exact runLines_ret rfl

/-- Settles O37: the two calls that come at once, and the test for slot 1 or the next one. -/
theorem dataFramePass : Obligations.DataFramePass := by
  intro s hr
  have hexec {k : Nat} (hk : s.runsFrom k = true) := performs_dataFrame.exec_of_runsFrom hr hk
  refine ⟨fun hk => (hexec hk).trans ?preamble, fun hk hmax => (hexec hk).trans ?firstSlot,
    fun hk => (hexec hk).trans ?checkpoint, fun i hk hseq hi hmax => (hexec hk).trans ?nextSlot,
    fun i hk hseq hi => (hexec hk).trans ?frameEnd⟩
  case preamble => exact runLines_call_eq rfl
  case firstSlot => exact dataFrame_run_to_slot 253 rfl hmax (by decide)
  case checkpoint => exact runLines_call_eq rfl
  case nextSlot =>
    exact dataFrame_run_to_slot 253 (dataFrameLines_nextSlot hseq) hi (Nat.lt_succ_of_le (hi.trans hmax))
  case frameEnd => exact dataFrame_run_to_end 254 (dataFrameLines_nextSlot hseq) hi

/-- Settles O40: the checkpoint; the discovery test, to the run or past it; and, past it or after the report,
the output test. -/
theorem cyclePass : Obligations.CyclePass := by
  intro s hr
  have hexec {k : Nat} (hk : s.runsFrom k = true) := performs_cycle.exec_of_runsFrom hr hk
  refine ⟨fun hk => (hexec hk).trans ?checkpoint, fun hk hdisc => (hexec hk).trans ?discover,
    fun hk hdisc hout => (hexec hk).trans ?outputOn, fun hk hdisc hout => (hexec hk).trans ?outputOff,
    fun hk => (hexec hk).trans ?report⟩
  case checkpoint => exact cycle_run_to_checkpoint 255
  case discover =>
    exact Eq.trans (runLines_goOn (if_pos hdisc)) <| Eq.trans (runLines_goOn rfl) (runLines_call_eq rfl)
  case outputOn =>
    exact (cycle_run_of_not_discPending (s := s.started) 255 hdisc).trans (cycle_run_of_outEn 253 hout)
  case outputOff =>
    exact (cycle_run_of_not_discPending (s := s.started) 255 hdisc).trans (cycle_run_of_not_outEn 253 hout)
  case report =>
    refine Eq.trans (runLines_goOn rfl) ?_
    cases hout : s.ctl.outEn with
    | true => exact cycle_run_of_outEn 253 hout
    | false => exact cycle_run_of_not_outEn 253 hout

end Sys2Proof.Proofs

/-! SUPPORT. The discovery sequencer (spec 42_discovery.md) one call at a time: how a sampled character is
classified, what `POLL_RANGE` and `DISCOVER` do up to their next call, the ranges of the census, and the
obligations on them. -/

namespace Sys2Proof.Machine

/-! ### A sampled character (R192) -/

/-- At a controller a received character only decides the answer, whatever line it is at. -/
theorem receiveLines_of_controller {s : State} (c : RxChar) (k : Nat) (hr : s.par.role = .controller) :
    receiveLines c k s = .ret { s with ctl := { s.ctl with answer := c.isBreak } } := by
  simp only [receiveLines, hr, sampleLines]

theorem exec_rx_of_runsFrom {s : State} {k : Nat} (c : RxChar) (hr : s.par.role = .controller)
    (hk : s.runsFrom k = true) :
    exec c.instr s = .next { s.started with ctl := { s.ctl with answer := c.isBreak } } :=
  (exec_rx c s).trans <| (perform_of_runsFrom hk).trans <|
    runLines_ret (receiveLines_of_controller (s := s.started) c k hr)

/-! ### An operation stopped after one line -/

theorem Performs.exec_of_runsOnly {i : Instr} {lines : Nat → State → LineEnd} {fuel k : Nat} {s : State}
    (hi : Performs i lines fuel) (hr : s.par.role = .controller) (h : s.runsOnly k = true) :
    exec i s = runLines i lines fuel (some 0) k s.started := by
  rw [hi.exec_eq, inRole_of_role _ hr, perform_of_runsOnly h]

/-- What an operation stopped after a line leaves, written out: it is called at the line that is next. -/
theorem runLines_goOn_stop_eq {i : Instr} {lines : Nat → State → LineEnd} {fuel k k' : Nat} {s s' t : State}
    (h : lines k s = .goOn k' s')
    (ht : t = { s' with ops := ⟨encode i, k'⟩ :: s'.ops } := by rfl) :
    runLines i lines (fuel + 1) (some 0) k s = .next t :=
  ht ▸ runLines_goOn_stop h

/-! ### `POLL_RANGE` (R190, R191) -/

section
variable {s : State} {mn mx j k n : Nat}

/-- The flag of a position is set if the range has it and no entry of the list is its address (R190). -/
theorem pollFlag_eq (s : State) (mn mx j : Nat) :
    s.pollFlag mn mx j =
      if mn ≤ j ∧ j ≤ mx ∧ ∀ i, i < s.ctl.dlCount → s.listRead i ≠ BitVec.ofNat 10 j then 1 else 0 := by
  simp [State.pollFlag, State.discovered]

/-- The line after a flag, with positions left: the next one. -/
theorem pollRangeLines_nextFlag (hseq : s.ctl.seq = .poll mn mx (.bitmap j)) (hj : j < Config.nAddr) :
    pollRangeLines mn mx 3 s = .goOn 2 (s.goto (.poll mn mx (.bitmap (j + 1)))) := by
  simp only [pollRangeLines, hseq, SeqPos.flagIndex, if_pos hj]

/-- The line after the last flag. -/
theorem pollRangeLines_lastFlag (hseq : s.ctl.seq = .poll mn mx (.bitmap Config.nAddr)) :
    pollRangeLines mn mx 3 s = .goOn 4 (s.goto (.poll mn mx .release)) := by
  simp only [pollRangeLines, hseq, SeqPos.flagIndex, lt_irrefl, if_false]

/-- A sample that finds nothing. -/
theorem pollRangeLines_nothing (hrx : s.env.rx.next.1 = none) :
    pollRangeLines mn mx 6 s = .goOn 8 s.drawRx.2 := by
  simp only [pollRangeLines, State.drawRx, hrx]

/-- A sample that finds a character. -/
theorem pollRangeLines_character {c : RxChar} (hrx : s.env.rx.next.1 = some c) :
    pollRangeLines mn mx 6 s = .call c.instr 7 s.drawRx.2 := by
  simp only [pollRangeLines, State.drawRx, hrx]

/-- The end of a sample, with samples left. -/
theorem pollRangeLines_nextSample (hseq : s.ctl.seq = .poll mn mx (.window n))
    (hn : n < Config.pollSamples) :
    pollRangeLines mn mx 9 s = .goOn 6 (s.goto (.poll mn mx (.window (n + 1)))) := by
  simp only [pollRangeLines, hseq, SeqPos.sample, if_pos hn]

/-- The end of the last sample. -/
theorem pollRangeLines_lastSample (hseq : s.ctl.seq = .poll mn mx (.window n))
    (hn : Config.pollSamples ≤ n) : pollRangeLines mn mx 9 s = .goOn 10 s := by
  simp only [pollRangeLines, hseq, SeqPos.sample, if_neg (Nat.not_lt.2 hn)]

/-- From a line that leads to the flag of position `j`: the flag is computed now and sent. -/
theorem pollRange_run_to_flag (fuel : Nat)
    (hgo : pollRangeLines mn mx k s = .goOn 2 (s.goto (.poll mn mx (.bitmap j)))) :
    runLines (.pollRange mn mx) (pollRangeLines mn mx) (fuel + 2) none k s = .next { s with
      ctl := { s.ctl with seq := .poll mn mx (.bitmap j) }
      ops := ⟨encode (.putSlot (s.pollFlag mn mx j)), 0⟩ :: ⟨encode (.pollRange mn mx), 3⟩ :: s.ops } :=
  Eq.trans (runLines_goOn hgo) (runLines_call_eq rfl)

/-- From the delay of the last sample on: the answer is false. -/
theorem pollRange_run_to_no_answer (fuel : Nat) (hseq : s.ctl.seq = .poll mn mx (.window n))
    (hn : Config.pollSamples ≤ n) :
    runLines (.pollRange mn mx) (pollRangeLines mn mx) (fuel + 3) none 8 s =
      .next { s with ctl := { s.ctl with answer := false } } :=
  Eq.trans (runLines_goOn rfl) <| Eq.trans (runLines_goOn (pollRangeLines_lastSample hseq hn))
    (runLines_ret rfl)

end

/-! ### `DISCOVER` (R194 to R197, R199) -/

theorem performs_discover : Performs .discover discoverLines shortRun := ⟨rfl, fun _ => rfl⟩

section
variable {s : State} {mn mx : Nat} (fuel : Nat)

/-- The `while` test: the poll of all addresses. -/
theorem discover_run_to_whilePoll : runLines .discover discoverLines (fuel + 1) none 2 s = .next { s with
    ctl := { s.ctl with seq := .disc .outer 1 512 }
    ops := ⟨encode (.pollRange 1 512), 0⟩ :: ⟨encode .discover, 3⟩ :: s.ops } := runLines_call_eq rfl

/-- A range that begins at an address is polled. -/
theorem discover_run_to_poll (hmn : mn ≤ 512) :
    runLines .discover discoverLines (fuel + 2) none 5 (s.goto (.disc .inner mn mx)) = .next { s with
      ctl := { s.ctl with seq := .disc .inner mn mx }
      ops := ⟨encode (.pollRange mn mx), 0⟩ :: ⟨encode .discover, 7⟩ :: s.ops } :=
  Eq.trans (runLines_goOn (if_neg (Nat.not_lt.2 hmn))) (runLines_call_eq rfl)

/-- A range above the addresses is not: the `while` test is next. -/
theorem discover_run_past_addresses (hmn : 512 < mn) :
    runLines .discover discoverLines (fuel + 2) none 5 (s.goto (.disc .inner mn mx)) = .next { s with
      ctl := { s.ctl with seq := .disc .outer 1 512 }
      ops := ⟨encode (.pollRange 1 512), 0⟩ :: ⟨encode .discover, 3⟩ :: s.ops } :=
  Eq.trans (runLines_goOn (if_pos hmn)) (discover_run_to_whilePoll fuel)

/-- The `while` poll answered: the search begins with all addresses. -/
theorem discover_run_of_noise (hans : s.ctl.answer = true) :
    runLines .discover discoverLines (fuel + 4) none 3 s = .next { s with
      ctl := { s.ctl with seq := .disc .inner 1 512 }
      ops := ⟨encode (.pollRange 1 512), 0⟩ :: ⟨encode .discover, 7⟩ :: s.ops } :=
  Eq.trans (runLines_goOn (if_pos hans)) <| Eq.trans (runLines_goOn rfl) <|
    discover_run_to_poll fuel (by decide)

/-- The `while` poll not answered: the run ends. -/
theorem discover_run_of_silence (hans : s.ctl.answer = false) :
    runLines .discover discoverLines (fuel + 1) none 3 s = .next (s.goto .boundary) :=
  runLines_ret (if_neg (Bool.eq_false_iff.1 hans))

variable (hrange : s.ctl.seq.range = (mn, mx))
include hrange

/-- The first test of an answer, with the range that was polled. -/
theorem discoverLines_answered : discoverLines 7 s =
    branch (s.ctl.answer = true ∧ mn = mx) 10 8 (s.goto (.disc .inner mn mx)) := by
  simp only [discoverLines, hrange]

/-- A range answered that is no singleton: on to its lower half. -/
theorem discover_run_to_lowerHalf (hans : s.ctl.answer = true) (hlt : mn < mx) :
    runLines .discover discoverLines (fuel + 3) none 7 s =
      runLines .discover discoverLines fuel none 5 (s.goto (.disc .inner mn (lowerHalf mn mx))) := by
  refine (runLines_goOn ((discoverLines_answered hrange).trans (if_neg fun h => hlt.ne h.2))).trans ?_
  exact Eq.trans (runLines_goOn (if_pos ⟨hans, hlt⟩)) (runLines_goOn rfl)

/-- A range not answered: on to the upper half. -/
theorem discover_run_to_upperHalf (hans : s.ctl.answer = false) :
    runLines .discover discoverLines (fuel + 4) none 7 s =
      runLines .discover discoverLines fuel none 5
        (s.goto (.disc .inner (upperHalf mn mx).1 (upperHalf mn mx).2)) := by
  have hno : ¬s.ctl.answer = true := Bool.eq_false_iff.1 hans
  refine (runLines_goOn ((discoverLines_answered hrange).trans (if_neg fun h => hno h.1))).trans ?_
  exact Eq.trans (runLines_goOn (if_neg fun h => hno h.1)) <| Eq.trans (runLines_goOn (if_pos hans))
    (runLines_goOn rfl)

/-- A range not answered that reaches the last address: the `while` test is next. -/
theorem discover_run_to_whilePoll_of_silence (hans : s.ctl.answer = false) (hmx : 512 ≤ mx) :
    runLines .discover discoverLines (fuel + 6) none 7 s = .next { s with
      ctl := { s.ctl with seq := .disc .outer 1 512 }
      ops := ⟨encode (.pollRange 1 512), 0⟩ :: ⟨encode .discover, 3⟩ :: s.ops } :=
  (discover_run_to_upperHalf (fuel + 2) hrange hans).trans <|
    discover_run_past_addresses fuel (Nat.lt_succ_of_le hmx)

end

section
variable {s : State} {mn : Nat} (hrange : s.ctl.seq.range = (mn, mn)) (hans : s.ctl.answer = true)
include hrange hans

/-- A singleton answered: on to the test of the list's room. -/
theorem discover_run_to_resolution (fuel : Nat) :
    runLines .discover discoverLines (fuel + 1) none 7 s =
      runLines .discover discoverLines fuel none 10 (s.goto (.disc .inner mn mn)) :=
  runLines_goOn ((discoverLines_answered hrange).trans (if_pos ⟨hans, rfl⟩))

/-- A singleton answered with the list full: the run ends with the overflow. -/
theorem discover_run_to_overflow (fuel : Nat) (hcount : s.ctl.dlCount = Config.listCap) :
    runLines .discover discoverLines (fuel + 3) none 7 s = .next { s with
      ctl := { s.ctl with dlOverflow := true, seq := .boundary } } :=
  (discover_run_to_resolution hrange hans (fuel + 2)).trans <|
    Eq.trans (runLines_goOn (if_pos hcount)) (runLines_ret rfl)

/-- A singleton answered with room in the list: it is appended and the `while` test is next. -/
theorem discover_run_to_append (fuel : Nat) (hcount : s.ctl.dlCount < Config.listCap) :
    runLines .discover discoverLines (fuel + 5) none 7 s = .next { s with
      ctl := { s.ctl with
        dl := (s.listWrite s.ctl.dlCount (BitVec.ofNat 10 mn)).ctl.dl
        dlCount := s.ctl.dlCount + 1, seq := .disc .outer 1 512 }
      ops := ⟨encode (.pollRange 1 512), 0⟩ :: ⟨encode .discover, 3⟩ :: s.ops } :=
  (discover_run_to_resolution hrange hans (fuel + 4)).trans <|
    Eq.trans (runLines_goOn (if_neg hcount.ne)) <| Eq.trans (runLines_goOn (if_pos hcount)) <|
      Eq.trans (runLines_goOn rfl) (discover_run_to_whilePoll fuel)

end

/-! ### The ranges of the census (R196) -/

/-- The ranges of the census: the `q`-th block of `2 ^ n` addresses, beginning at 513 at most. -/
theorem censusRange_iff {mn mx : Nat} : censusRange mn mx = true ↔
    ∃ n q, n < 10 ∧ q * 2 ^ n ≤ 512 ∧ mn = q * 2 ^ n + 1 ∧ mx = (q + 1) * 2 ^ n := by
  simp only [censusRange, List.any_eq_true, List.mem_range, Bool.and_eq_true, decide_eq_true_eq]
  constructor
  · rintro ⟨n, hn, ⟨⟨hlo, hhi⟩, hwidth⟩, hmod⟩
    have hq : (mn - 1) / 2 ^ n * 2 ^ n = mn - 1 := Nat.div_mul_cancel (Nat.dvd_of_mod_eq_zero hmod)
    have hhi' : mn ≤ 513 := hhi
    exact ⟨n, (mn - 1) / 2 ^ n, hn, by omega, by omega, by rw [Nat.succ_mul]; omega⟩
  · rintro ⟨n, q, hn, hhi, rfl, rfl⟩
    refine ⟨n, hn, ⟨⟨Nat.succ_pos _, Nat.succ_le_succ hhi⟩, ?_⟩, Nat.mul_mod_left q _⟩
    rw [Nat.succ_mul]
    omega

/-- A block that begins at an address ends at one: 512 is a multiple of its width. -/
theorem succ_mul_two_pow_le {n q : Nat} (hn : n < 10) (h : q * 2 ^ n < 512) : (q + 1) * 2 ^ n ≤ 512 := by
  have hwidth : 2 ^ (9 - n) * 2 ^ n = 512 := by
    rw [← pow_add, Nat.sub_add_cancel (by omega)]
    rfl
  rw [← hwidth] at h ⊢
  exact Nat.mul_le_mul_right _ (Nat.lt_of_mul_lt_mul_right h)

/-- The lower half of block `q` of `2 ^ (n + 1)` addresses is block `2 * q` of `2 ^ n`. -/
theorem lowerHalf_block (n q : Nat) :
    lowerHalf (q * 2 ^ (n + 1) + 1) ((q + 1) * 2 ^ (n + 1)) = (2 * q + 1) * 2 ^ n := by
  have hsum : q * 2 ^ (n + 1) + 1 + (q + 1) * 2 ^ (n + 1) - 1 = 2 * ((2 * q + 1) * 2 ^ n) := by
    rw [Nat.add_right_comm, Nat.add_sub_cancel]
    ring
  rw [lowerHalf, hsum, Nat.mul_div_cancel_left _ Nat.two_pos]

/-- The complementary upper half of a block is the block after it. -/
theorem upperHalf_block (n q : Nat) :
    upperHalf (q * 2 ^ n + 1) ((q + 1) * 2 ^ n) = ((q + 1) * 2 ^ n + 1, (q + 1 + 1) * 2 ^ n) := by
  generalize 2 ^ n = w
  simp only [upperHalf, Nat.succ_mul, Prod.mk.injEq, true_and]
  omega

end Sys2Proof.Machine

namespace Sys2Proof.Proofs

open Sys2Proof.Machine

/-- Settles O42: each class is its own operation, and a character at a controller only decides the answer. -/
theorem pollWindowClassifies : Obligations.PollWindowClassifies := by
  intro s hr hk
  refine ⟨exec_rx_of_runsFrom ⟨0, true⟩ hr hk, fun b hb => ?stray, fun b => ?data⟩
  case stray =>
    have h := exec_rx_of_runsFrom ⟨b, true⟩ hr hk
    have hno : RxChar.isBreak ⟨b, true⟩ = false := decide_eq_false hb
    rw [instr_of_stray hb, hno] at h
    exact h
  case data =>
    have h := exec_rx_of_runsFrom ⟨b, false⟩ hr hk
    rw [instr_of_data] at h
    exact h

/-- Settles O41: each stage up to its next call, its return or its one line. -/
theorem pollRangePass : Obligations.PollRangePass := by
  intro s mn mx hr
  have hexec {k : Nat} (hk : s.runsFrom k = true) := (performs_pollRange mn mx).exec_of_runsFrom hr hk
  have hone {k : Nat} (hk : s.runsOnly k = true) := (performs_pollRange mn mx).exec_of_runsOnly hr hk
  refine ⟨fun hk => (hexec hk).trans ?preamble, fun j hj => ?flag,
    fun hk hseq => (hexec hk).trans ?release, fun c hk hrx => (hexec hk).trans ?firstCharacter,
    fun hk => (hone hk).trans ?windowOpens, fun hk hrx => (hone hk).trans ?nothing,
    fun hk hans => (hexec hk).trans ?answered, fun hk hans => (hone hk).trans ?discarded,
    fun k hk hseq hlt => (hone hk).trans ?nextSample, fun k hk hseq hle => (hexec hk).trans ?noAnswer⟩
  case preamble => exact runLines_call_eq rfl
  case flag =>
    have hflag := pollFlag_eq s mn mx j
    obtain ⟨rfl, hk⟩ | ⟨hlo, hhi, hk, hseq⟩ := hj
    · rw [← hflag]
      exact (hexec hk).trans (pollRange_run_to_flag 254 rfl)
    · obtain ⟨j, rfl⟩ : ∃ i, j = i + 1 := ⟨j - 1, by omega⟩
      rw [← hflag]
      exact (hexec hk).trans (pollRange_run_to_flag 254 (pollRangeLines_nextFlag hseq hhi))
  case release => exact Eq.trans (runLines_goOn (pollRangeLines_lastFlag hseq)) (runLines_call_eq rfl)
  case firstCharacter =>
    exact Eq.trans (runLines_goOn rfl) (runLines_call_eq (pollRangeLines_character hrx))
  case windowOpens => exact runLines_goOn_stop_eq rfl
  case nothing => exact runLines_goOn_stop_eq (pollRangeLines_nothing hrx)
  case answered => exact runLines_ret (if_pos hans)
  case discarded => exact runLines_goOn_stop_eq (if_neg (Bool.eq_false_iff.1 hans))
  case nextSample => exact runLines_goOn_stop_eq (pollRangeLines_nextSample hseq hlt)
  case noAnswer => exact pollRange_run_to_no_answer 253 hseq hle

/-- Settles O45: the start, and each answer of a poll up to the next call or the end of the run. -/
theorem discoverPass : Obligations.DiscoverPass := by
  intro s hr
  have hexec {k : Nat} (hk : s.runsFrom k = true) := performs_discover.exec_of_runsFrom hr hk
  refine ⟨fun hk => (hexec hk).trans ?start, fun hk hans => (hexec hk).trans ?search,
    fun hk hans => (hexec hk).trans ?runEnds, fun mn mx hk hrange hans hlt hmn => (hexec hk).trans ?lower,
    fun mn mx hk hrange hans hmx => (hexec hk).trans ?upper,
    fun mn mx hk hrange hans hmx => (hexec hk).trans ?searchEnds⟩
  case start =>
    exact Eq.trans (runLines_goOn rfl) <| Eq.trans (runLines_goOn rfl) (discover_run_to_whilePoll 253)
  case search => exact discover_run_of_noise 252 hans
  case runEnds => exact discover_run_of_silence 255 hans
  case lower =>
    exact (discover_run_to_lowerHalf (s := s.started) 253 hrange hans hlt).trans
      (discover_run_to_poll 251 hmn)
  case upper =>
    exact (discover_run_to_upperHalf (s := s.started) 252 hrange hans).trans (discover_run_to_poll 250 hmx)
  case searchEnds => exact discover_run_to_whilePoll_of_silence (s := s.started) 250 hrange hans hmx

/-- Settles O46: the list has no room, or the entry is written at its end and the count rises. -/
theorem singletonIsAppendedOrOverflows : Obligations.SingletonIsAppendedOrOverflows := by
  intro s mn hr hk hrange hans
  have hexec := performs_discover.exec_of_runsFrom hr hk
  refine ⟨fun hcount => hexec.trans (discover_run_to_overflow (s := s.started) hrange hans 253 hcount),
    fun hcount => ⟨_, hexec.trans (discover_run_to_append (s := s.started) hrange hans 251 hcount),
      fun i => ?entry, rfl⟩⟩
  exact listRead_listWrite s s.ctl.dlCount i _

/-- Settles O48: a range is a block of `2 ^ n` addresses; its lower half is the first block of half the
width in it, and its upper half the block after it. -/
theorem censusRangesHalveOrAdvance : Obligations.CensusRangesHalveOrAdvance := by
  intro mn mx h hmn
  obtain ⟨n, q, hn, -, rfl, rfl⟩ := censusRange_iff.1 h
  have hend : (q + 1) * 2 ^ n ≤ 512 := succ_mul_two_pow_le hn hmn
  have hwidth : (q + 1) * 2 ^ n = q * 2 ^ n + 2 ^ n := Nat.succ_mul q _
  have hpos : 0 < 2 ^ n := Nat.two_pow_pos n
  refine ⟨by omega, hend, fun hlt => ?lower, ?upper⟩
  case lower =>
    cases n with
    | zero => omega
    | succ m =>
      have hstart : q * 2 ^ (m + 1) = 2 * q * 2 ^ m := by ring
      have hhalf : (2 * q + 1) * 2 ^ m = 2 * q * 2 ^ m + 2 ^ m := Nat.succ_mul _ _
      have hdouble : 2 ^ (m + 1) = 2 * 2 ^ m := Nat.pow_succ'
      rw [lowerHalf_block]
      exact ⟨by omega, censusRange_iff.2 ⟨m, 2 * q, by omega, by omega, by rw [hstart], rfl⟩⟩
  case upper =>
    have hnext : (q + 1 + 1) * 2 ^ n = (q + 1) * 2 ^ n + 2 ^ n := Nat.succ_mul _ _
    rw [upperHalf_block]
    exact ⟨by omega, by omega, by omega, censusRange_iff.2 ⟨n, q + 1, hn, hend, rfl, rfl⟩⟩

end Sys2Proof.Proofs

/-! SUPPORT. The window of a poll (spec 42_discovery.md R191, R192): how its samples decide the answer, by
induction on the samples left, and the obligation on it. -/

namespace Sys2Proof.Machine

/-! ### The samples (R192) -/

theorem isBreak_iff {c : RxChar} : c.isBreak = true ↔ c = ⟨0, true⟩ := by
  obtain ⟨b, fe⟩ := c
  simp [RxChar.isBreak, and_comm]

/-- At most `n` samples, up to the first Break (R191, R192): whether one was found, and the receiver's draws
after the last sample taken. -/
def Draw.untilBreak : Nat → Draw (Option RxChar) → Bool × Draw (Option RxChar)
  | 0, d => (false, d)
  | n + 1, d => if d.next.1 = some ⟨0, true⟩ then (true, d.next.2) else Draw.untilBreak n d.next.2

theorem Draw.untilBreak_of_break {n : Nat} {d : Draw (Option RxChar)} (h : d.next.1 = some ⟨0, true⟩) :
    d.untilBreak (n + 1) = (true, d.next.2) := if_pos h

theorem Draw.untilBreak_of_ne {n : Nat} {d : Draw (Option RxChar)} (h : d.next.1 ≠ some ⟨0, true⟩) :
    d.untilBreak (n + 1) = d.next.2.untilBreak n := if_neg h

theorem Draw.untilBreak_fst (n : Nat) (d : Draw (Option RxChar)) :
    (d.untilBreak n).1 = (d.take n).any fun c => c = some ⟨0, true⟩ := by
  induction n generalizing d with
  | zero => rfl
  | succ n ih =>
    by_cases h : d.next.1 = some ⟨0, true⟩
    · simp [Draw.untilBreak_of_break h, Draw.take, h]
    · simp only [Draw.untilBreak_of_ne h, Draw.take, List.any_cons, decide_eq_false h, Bool.false_or, ih]

/-! ### A step of a received character -/

theorem getLsbD_ofBool_append (fe : Bool) (b : Byte) : (BitVec.ofBool fe ++ b).getLsbD 8 = fe := by
  rw [BitVec.getLsbD_append]
  cases fe <;> rfl

theorem rxWord_eq_break_iff {b : Byte} {fe : Bool} :
    BitVec.ofBool fe ++ b = (0x100 : BitVec 9) ↔ fe = true ∧ b = 0 := by
  constructor
  · intro h
    have hbit := getLsbD_ofBool_append fe b
    have hlow : (BitVec.ofBool fe ++ b).setWidth 8 = b := BitVec.setWidth_append_eq_right
    rw [h] at hbit hlow
    exact ⟨hbit.symm, hlow.symm⟩
  · rintro ⟨rfl, rfl⟩
    rfl

theorem encode_rx (c : RxChar) : encode c.instr = ⟨.rxchar, [rxWord c.b c.fe], []⟩ := by
  obtain ⟨b, fe⟩ := c
  cases fe
  · rw [instr_of_data]; rfl
  · by_cases hb : b = 0
    · subst hb; rfl
    · rw [instr_of_stray hb]; rfl

/-- The words of a received character decode to the operation it is. -/
theorem decode_encode_rx (c : RxChar) : decode (encode c.instr) = .ok c.instr := by
  rw [encode_rx]
  refine (Proofs.rxCharWordsDecode (BitVec.ofBool c.fe ++ c.b)).trans (congrArg _ ?_)
  simp only [rxWord_eq_break_iff, getLsbD_ofBool_append, BitVec.setWidth_append_eq_right]
  obtain ⟨b, fe⟩ := c
  cases fe <;> simp [RxChar.instr, RxChar.isBreak, RxChar.isStray]
  split <;> rfl

theorem undisturbed_resumed {s : State} (hu : s.undisturbed = true) (later : List Call) :
    (s.resumed later).undisturbed = true := by
  simp only [State.undisturbed, Bool.and_eq_true] at hu ⊢
  obtain ⟨⟨hrequests, he⟩, hc⟩ := hu
  exact ⟨⟨hrequests, (Draw.all_next he).2⟩, (Draw.all_next hc).2⟩

/-- The state after a step of the received character `c` at a controller. -/
def State.classified (s : State) (c : RxChar) (later : List Call) : State :=
  { s.resumed later with ctl := { s.ctl with answer := c.isBreak } }

theorem undisturbed_classified {s : State} (hu : s.undisturbed = true) (c : RxChar) (later : List Call) :
    (s.classified c later).undisturbed = true := undisturbed_resumed hu later

/-- Undisturbed, a step of a received character decides the answer. -/
theorem step_rx {c : RxChar} {s : State} {later : List Call} (hr : s.par.role = .controller)
    (hu : s.undisturbed = true) (ho : s.ops = ⟨encode c.instr, 0⟩ :: later) :
    step s = .next (s.classified c later) := by
  simp only [State.undisturbed, Bool.and_eq_true, Bool.not_eq_true'] at hu
  obtain ⟨⟨⟨htick, hdrain⟩, hevents⟩, hcut⟩ := hu
  obtain ⟨hrun, -⟩ := Proofs.stepRunsDecodedInstruction s htick hdrain (Draw.all_next hevents).1
  refine (hrun _ later _ ho (decode_encode_rx c)).trans (exec_rx_of_runsFrom (k := 0) c hr ?_)
  simpa [State.runsFrom] using (Draw.all_next hcut).1

/-! ### The window -/

/-- Inside the window of the poll of (`mn`, `mx`), sample `k` next or under way, nothing being called. -/
structure Sampling (mn mx : Nat) (later : List Call) (k : Nat) (s : State) : Prop where
  role : s.par.role = .controller
  undisturbed : s.undisturbed = true
  ops : s.ops = later
  line : s.line = 0
  seq : s.ctl.seq = .poll mn mx (.window k)

/-- The state that a sample of the poll of (`mn`, `mx`) leaves when it finds `c`: the operation of `c` is
called, and after it the poll's test is next. -/
def State.found (s : State) (mn mx : Nat) (c : RxChar) : State :=
  (s.drawRx.2.callAt (.pollRange mn mx) 7).callAt c.instr 0

/-- From `s` to `t` nothing has changed but the calls, the position, the answer and the draws of a window. -/
def OnlySampled (s t : State) : Prop :=
  t = { s with
    ops := t.ops, line := t.line
    ctl := { s.ctl with seq := t.ctl.seq, answer := t.ctl.answer }
    env := { s.env with rx := t.env.rx, events := t.env.events, cut := t.env.cut } }

theorem OnlySampled.trans {s t u : State} (h : OnlySampled s t) (h' : OnlySampled t u) : OnlySampled s u := by
  rw [OnlySampled, h', h]

section
variable {s t : State} (h : OnlySampled s t)
include h

theorem OnlySampled.ctl : t.ctl = { s.ctl with seq := t.ctl.seq, answer := t.ctl.answer } :=
  congrArg State.ctl (show t = _ from h)

theorem OnlySampled.out : t.out = s.out := by rw [h]

theorem OnlySampled.uartReady : t.uartReady = s.uartReady := by rw [h]; rfl

end

theorem onlySampled_resumed (s : State) (later : List Call) : OnlySampled s (s.resumed later) := rfl

theorem onlySampled_classified (s : State) (c : RxChar) (later : List Call) :
    OnlySampled s (s.classified c later) := rfl

theorem onlySampled_found (s : State) (mn mx : Nat) (c : RxChar) : OnlySampled s (s.found mn mx c) := rfl

/-- What a window with `n` samples left leaves: its answer, and the receiver after its last sample. -/
structure WindowLeaves (mn mx : Nat) (later : List Call) (n : Nat) (s t : State) : Prop where
  sampling : ∃ k, Sampling mn mx later k t
  changed : OnlySampled s t
  result : (t.ctl.answer, t.env.rx) = s.env.rx.untilBreak n

/-- `POLL_RANGE` at line `k`, with `n` samples left, comes to its end. -/
def WindowEnds (mn mx : Nat) (later : List Call) (n fuel k : Nat) (s : State) : Prop :=
  ∃ u t, runLines (.pollRange mn mx) (pollRangeLines mn mx) fuel none k s = .next u ∧ Reaches u t ∧
    WindowLeaves mn mx later n s t

section
variable {mn mx n m fuel k k' : Nat} {later : List Call} {s s' : State} {c : RxChar}

theorem WindowEnds.of_goOn (h : WindowEnds mn mx later n fuel k' s')
    (hl : pollRangeLines mn mx k s = .goOn k' s') (hs : OnlySampled s s')
    (hrx : s.env.rx.untilBreak m = s'.env.rx.untilBreak n) :
    WindowEnds mn mx later m (fuel + 1) k s := by
  obtain ⟨u, t, hrun, hreach, ht⟩ := h
  exact ⟨u, t, (runLines_goOn hl).trans hrun, hreach, ht.sampling, hs.trans ht.changed,
    ht.result.trans hrx.symm⟩

/-- After the last sample the answer is false. -/
theorem Sampling.ends_of_last (hs : Sampling mn mx later k s) (hk : Config.pollSamples ≤ k) :
    WindowEnds mn mx later 0 (fuel + 3) 8 s :=
  ⟨_, _, pollRange_run_to_no_answer fuel hs.seq hk, ⟨0, rfl⟩, ⟨k, hs.role, hs.undisturbed, hs.ops, hs.line,
    hs.seq⟩, rfl, rfl⟩

/-- The operation of a character sampled decides the answer, and then the poll goes on with its test. -/
theorem reaches_of_test {t : State} (hr : s.par.role = .controller) (hu : s.undisturbed = true)
    (ho : s.ops = ⟨encode c.instr, 0⟩ :: ⟨encode (.pollRange mn mx), 7⟩ :: later)
    (h : runLines (.pollRange mn mx) (pollRangeLines mn mx) shortRun none 7
      ((s.classified c (⟨encode (.pollRange mn mx), 7⟩ :: later)).resumed later) = .next t) :
    Reaches s t := by
  have hu' := undisturbed_classified hu c (⟨encode (.pollRange mn mx), 7⟩ :: later)
  have htest := (performs_pollRange mn mx).step_eq (s := s.classified c _) hr hu' rfl
  exact .trans (.of_step (step_rx hr hu ho)) (.of_step (htest.trans h))

/-- A sample that finds `c`: the poll goes on with its test, in the window, the answer being whether `c` is a
Break. -/
theorem Sampling.reaches_test (hs : Sampling mn mx later k s) (c : RxChar) :
    ∃ w, Sampling mn mx later k w ∧ OnlySampled s w ∧ w.ctl.answer = c.isBreak ∧
      w.env.rx = s.env.rx.next.2 ∧
      ∀ t, runLines (.pollRange mn mx) (pollRangeLines mn mx) shortRun none 7 w = .next t →
        Reaches (s.found mn mx c) t :=
  have hu : (s.found mn mx c).undisturbed = true := hs.undisturbed
  have hu' := undisturbed_classified hu c (⟨encode (.pollRange mn mx), 7⟩ :: later)
  ⟨((s.found mn mx c).classified c (⟨encode (.pollRange mn mx), 7⟩ :: later)).resumed later,
    ⟨hs.role, undisturbed_resumed hu' later, rfl, rfl, hs.seq⟩,
    (onlySampled_found s mn mx c).trans ((onlySampled_classified _ c _).trans (onlySampled_resumed _ later)),
    rfl, rfl,
    fun _ => reaches_of_test (c := c) hs.role hu (congrArg (_ :: _ :: ·) hs.ops)⟩

/-- One sample: nothing, or a character whose answer ends the poll or is discarded. -/
theorem Sampling.ends_of_sample (hs : Sampling mn mx later k s) (hn : n < 60)
    (hdelay : ∀ fuel s, Sampling mn mx later k s → WindowEnds mn mx later n (fuel + (3 * n + 3)) 8 s) :
    WindowEnds mn mx later (n + 1) (fuel + (3 * n + 4)) 6 s := by
  cases hrx : s.env.rx.next.1 with
  | none =>
    have hnext : Sampling mn mx later k s.drawRx.2 := ⟨hs.role, hs.undisturbed, hs.ops, hs.line, hs.seq⟩
    exact (hdelay fuel _ hnext).of_goOn (pollRangeLines_nothing hrx) rfl
      (Draw.untilBreak_of_ne (by simp [hrx]))
  | some c =>
    have hcall : runLines (.pollRange mn mx) (pollRangeLines mn mx) (fuel + (3 * n + 4)) none 6 s =
        .next (s.found mn mx c) :=
      runLines_call (pollRangeLines_character hrx)
    obtain ⟨w, hw, hchanged, hanswer, hrxw, htest⟩ := hs.reaches_test c
    by_cases hc : c.isBreak = true
    case pos =>
      refine ⟨_, w, hcall, htest w (runLines_ret (if_pos (hanswer.trans hc))), ⟨k, hw⟩, hchanged, ?_⟩
      rw [Draw.untilBreak_of_break (hrx.trans (congrArg _ (isBreak_iff.1 hc))), hanswer, hc, hrxw]
    case neg =>
      have hne : s.env.rx.next.1 ≠ some ⟨0, true⟩ := by
        rw [hrx]
        exact fun h => hc (isBreak_iff.2 (Option.some.inj h))
      obtain ⟨extra, hfuel⟩ : ∃ extra, shortRun = extra + (3 * n + 3) + 1 :=
        ⟨252 - 3 * n, by simp only [shortRun]; omega⟩
      obtain ⟨u, t, hrun, hreach, ht⟩ :=
        (hdelay extra w hw).of_goOn (k := 7) (if_neg (hanswer ▸ hc)) rfl rfl
      rw [← hfuel] at hrun
      exact ⟨_, t, hcall, (htest u hrun).trans hreach, ht.sampling, hchanged.trans ht.changed,
        by rw [ht.result, hrxw, Draw.untilBreak_of_ne hne]⟩

/-- From the delay of sample `k` on, by induction on the `n = 60 - k` samples left. -/
theorem Sampling.ends_of_delay (n : Nat) : ∀ {k : Nat} (fuel : Nat) (s : State), k + n = 60 →
    Sampling mn mx later k s → WindowEnds mn mx later n (fuel + (3 * n + 3)) 8 s := by
  induction n with
  | zero => exact fun fuel s hk hs => hs.ends_of_last hk.ge
  | succ n ih =>
    intro k fuel s hk hs
    have hnext : Sampling mn mx later (k + 1) (s.goto (.poll mn mx (.window (k + 1)))) :=
      ⟨hs.role, hs.undisturbed, hs.ops, hs.line, rfl⟩
    have hn : n < 60 := by omega
    have hlt : k < Config.pollSamples := Nat.lt_of_lt_of_eq (by omega) hk
    have hsample := hnext.ends_of_sample (fuel := fuel) hn fun fuel s => ih fuel s (by omega)
    exact (hsample.of_goOn (pollRangeLines_nextSample hs.seq hlt) rfl rfl).of_goOn rfl rfl rfl

end

/-- The window of a poll after its release (R191, R192): 60 samples, or those up to the first Break. -/
theorem pollRange_window {mn mx : Nat} {s : State} {later : List Call} (hr : s.par.role = .controller)
    (hu : s.undisturbed = true) (ho : s.ops = ⟨encode (.pollRange mn mx), 5⟩ :: later) :
    ∃ t, Reaches s t ∧ WindowLeaves mn mx later 60 s t := by
  have hopen : Sampling mn mx later 1 ((s.resumed later).goto (.poll mn mx (.window 1))) :=
    ⟨hr, undisturbed_resumed hu later, rfl, rfl, rfl⟩
  have hsample := hopen.ends_of_sample (fuel := 74) (n := 59) (by decide) fun fuel s =>
    Sampling.ends_of_delay 59 fuel s rfl
  obtain ⟨u, t, hrun, hreach, ht⟩ := hsample.of_goOn (k := 5) (s := s.resumed later) (m := 60) rfl rfl rfl
  have hstep := ((performs_pollRange mn mx).step_eq hr hu ho).trans hrun
  exact ⟨t, (Reaches.of_step hstep).trans hreach, ht.sampling,
    (onlySampled_resumed s later).trans ht.changed, ht.result⟩

end Sys2Proof.Machine

namespace Sys2Proof.Proofs

open Sys2Proof.Machine

/-- Settles O44: the window by induction on its samples. -/
theorem pollWindowReturnsTheAnswer : Obligations.PollWindowReturnsTheAnswer := by
  intro s mn mx later hr hu _ ho
  obtain ⟨t, ⟨n, hn⟩, ⟨k, hsampling⟩, hchanged, hresult⟩ := pollRange_window hr hu ho
  have hanswer : t.ctl.answer = (s.env.rx.take 60).any fun c => c = some ⟨0, true⟩ :=
    (congrArg Prod.fst hresult).trans (Draw.untilBreak_fst 60 s.env.rx)
  refine ⟨n, t, hn, ?_, by rw [hsampling.seq]; rfl, hsampling.ops, ?_⟩
  · rw [← hanswer]
    exact hchanged.ctl
  · exact hchanged.out

end Sys2Proof.Proofs

/-! SUPPORT. Runs of the discovery sequencer that nothing disturbs (spec 42_discovery.md R194, R200): a whole
poll on a ready UART, and the obligations on a silent and on a noisy bus. -/

namespace Sys2Proof.Machine

/-! ### A whole poll -/

/-- A poll from its start to its release (R96, R191). -/
theorem quietRun_pollFrame {mn mx : Nat} {s : State} {later : List Call} (hs : Calm s)
    (ho : s.ops = ⟨encode (.pollRange mn mx), 0⟩ :: later) :
    ∃ env, QuietRun s { s with
      ops := ⟨encode (.pollRange mn mx), 5⟩ :: later, line := 0, de := false, baud := .nominal, env := env
      ctl := { s.ctl with seq := .poll mn mx .release }
      out := { s.out with wire :=
        s.out.wire ++ (if s.de then [] else [.de true]) ++ [.brk, .byte 0xF0] ++
          (List.range 512).map (fun k => .byte (s.pollFlag mn mx (k + 1))) ++ [.de false] } } := by
  have hcall := (performs_pollRange mn mx).quietRun hs ho (runLines_call rfl)
  obtain ⟨_, hbreak⟩ := quietRun_sendBreak hcall.calm rfl
  obtain ⟨_, hflags⟩ := quietRun_flags 511 hbreak.calm rfl rfl rfl rfl
  obtain ⟨env, hrelease⟩ := quietRun_releaseDe hflags.calm rfl rfl
  rw [← map_range'_one fun j => WireEvent.byte (s.pollFlag mn mx j)]
  exact ⟨env, ((hcall.trans hbreak).trans hflags).trans hrelease⟩

/-- What a whole poll leaves. -/
structure PollLeaves (mn mx : Nat) (later : List Call) (s t : State) : Prop where
  reaches : Reaches s t
  calm : Calm t
  ops : t.ops = later
  range : t.ctl.seq.range = (mn, mx)
  ctl : t.ctl = { s.ctl with seq := t.ctl.seq, answer := t.ctl.answer }
  answer : t.ctl.answer = (s.env.rx.untilBreak 60).1
  rx : t.env.rx = (s.env.rx.untilBreak 60).2
  resp : t.out.resp = s.out.resp
  wire : t.out.wire = s.out.wire ++ (if s.de then [] else [.de true]) ++ [.brk, .byte 0xF0] ++
    (List.range 512).map (fun k => .byte (s.pollFlag mn mx (k + 1))) ++ [.de false]

theorem PollLeaves.dl {mn mx : Nat} {later : List Call} {s t : State} (h : PollLeaves mn mx later s t) :
    t.ctl.dl = s.ctl.dl := by rw [h.ctl]

theorem PollLeaves.dlCount {mn mx : Nat} {later : List Call} {s t : State}
    (h : PollLeaves mn mx later s t) : t.ctl.dlCount = s.ctl.dlCount := by rw [h.ctl]

/-- A poll runs from its start to its end. -/
theorem pollRange_run {mn mx : Nat} {s : State} {later : List Call} (hs : Calm s)
    (ho : s.ops = ⟨encode (.pollRange mn mx), 0⟩ :: later) : ∃ t, PollLeaves mn mx later s t := by
  obtain ⟨env, hframe⟩ := quietRun_pollFrame hs ho
  obtain ⟨t, hreach, ⟨k, hsampling⟩, hchanged, hresult⟩ :=
    pollRange_window hframe.calm.role hframe.calm.undisturbed rfl
  rw [hframe.rx] at hresult
  refine ⟨t, ?_⟩
  constructor
  case reaches => exact hframe.reaches.trans hreach
  case calm => exact ⟨hsampling.role, hsampling.undisturbed, hchanged.uartReady.trans hframe.calm.uartReady⟩
  case ops => exact hsampling.ops
  case range => rw [hsampling.seq]; rfl
  case ctl => exact hchanged.ctl
  case answer => exact congrArg Prod.fst hresult
  case rx => exact congrArg Prod.snd hresult
  case resp => rw [hchanged.out]
  case wire => rw [hchanged.out]

/-- With nothing discovered, every flag of a poll of all addresses is 1. -/
theorem pollFlags_of_empty {s : State} (h : s.ctl.dlCount = 0) :
    (List.range 512).map (fun k => WireEvent.byte (s.pollFlag 1 512 (k + 1))) =
      List.replicate 512 (.byte 0x01) := by
  have hflag : ∀ k ∈ List.range 512, WireEvent.byte (s.pollFlag 1 512 (k + 1)) = .byte 0x01 := by
    intro k hk
    have hlt := List.mem_range.1 hk
    rw [pollFlag_eq, if_pos ⟨by omega, by omega, fun i hi => by omega⟩]
  rw [List.map_congr_left hflag, List.map_const', List.length_range]

/-! ### Noise -/

/-- The receiver of vector D12: one Break and sixty empty samples, for ever (R200). -/
def noise : Draw (Option RxChar) := ⟨[], some ⟨0, true⟩, List.replicate 60 none⟩

/-- The Break answers the `while` poll. -/
theorem noise_untilBreak : noise.untilBreak 60 = (true, noise.next.2) := Draw.untilBreak_of_break rfl

/-- Samples that find nothing, `a + 1` of them, up to the loop's Break, with `b` more behind it. -/
theorem untilBreak_of_nothing (a b : Nat) :
    Draw.untilBreak (a + 1) ⟨[], none, List.replicate a none ++ some ⟨0, true⟩ :: List.replicate b none⟩ =
      (false, ⟨[], some ⟨0, true⟩, List.replicate (b + (a + 1)) none⟩) := by
  induction a generalizing b with
  | zero =>
    rw [List.replicate_succ']
    rfl
  | succ a ih =>
    have hrotated : List.replicate a none ++ some (⟨0, true⟩ : RxChar) :: List.replicate b none ++ [none] =
        List.replicate a none ++ some ⟨0, true⟩ :: List.replicate (b + 1) none := by
      simp [List.replicate_succ']
    have hcount : b + 1 + (a + 1) = b + (a + 1 + 1) := by omega
    rw [← hcount, ← ih (b + 1), ← hrotated]
    exact Draw.untilBreak_of_ne (n := a + 1) (show none ≠ some _ from nofun)

/-- The empty samples leave the inner poll unanswered, and the noise begins again. -/
theorem noise_next_untilBreak : noise.next.2.untilBreak 60 = (false, noise) := untilBreak_of_nothing 59 0

/-- `DISCOVER` has called its `while` poll, on a bus with noise, and since `old` it has discovered and
reported nothing. -/
structure AtWhilePoll (later : List Call) (old s : State) : Prop where
  calm : Calm s
  ops : s.ops = ⟨encode (.pollRange 1 512), 0⟩ :: ⟨encode .discover, 3⟩ :: later
  rx : s.env.rx = noise
  dl : s.ctl.dl = old.ctl.dl
  dlCount : s.ctl.dlCount = old.ctl.dlCount
  resp : s.out.resp = old.out.resp

/-- A run that has changed the calls has taken a step. -/
theorem run_pos_of_ops_ne {n : Nat} {s t : State} (h : Host.Core.run Sys2Proof.core n s = .next t)
    (hops : s.ops ≠ t.ops) : 0 < n := by
  refine Nat.pos_of_ne_zero fun hn => hops ?_
  subst hn
  cases h
  rfl

/-- Noise answers the `while` poll and nothing the inner one: the run comes back to the `while` poll. -/
theorem AtWhilePoll.comes_back {later : List Call} {old s : State} (hs : AtWhilePoll later old s) :
    ∃ n t, 0 < n ∧ Host.Core.run Sys2Proof.core n s = .next t ∧ AtWhilePoll later old t := by
  obtain ⟨t, ht⟩ := pollRange_run hs.calm hs.ops
  have hanswered : t.ctl.answer = true := by rw [ht.answer, hs.rx, noise_untilBreak]
  have hsearch := performs_discover.quietRun ht.calm ht.ops
    (discover_run_of_noise (s := t.resumed later) 252 hanswered)
  have hrx := hsearch.rx.trans ht.rx
  rw [hs.rx, noise_untilBreak] at hrx
  obtain ⟨u, hu⟩ := pollRange_run hsearch.calm rfl
  have hsilent : u.ctl.answer = false := by rw [hu.answer, hrx, noise_next_untilBreak]
  have hagain := performs_discover.quietRun hu.calm hu.ops
    (discover_run_to_whilePoll_of_silence (s := u.resumed later) 250 hu.range hsilent le_rfl)
  obtain ⟨n, hn⟩ := ht.reaches.trans hsearch.reaches
  obtain ⟨m, hm⟩ := hu.reaches.trans hagain.reaches
  refine ⟨n + m, _, Nat.add_pos_left (run_pos_of_ops_ne hn ?called) m, (run_add m n s hn).trans hm,
    hagain.calm, rfl, ?rx, ?dl, ?dlCount, ?resp⟩
  case called => simp [hs.ops]
  case rx => rw [hagain.rx, hu.rx, hrx, noise_next_untilBreak]
  case dl => exact hu.dl.trans (ht.dl.trans hs.dl)
  case dlCount => exact hu.dlCount.trans (ht.dlCount.trans hs.dlCount)
  case resp => exact hu.resp.trans (ht.resp.trans hs.resp)

/-- However many steps are taken, the run is at its `while` poll again. -/
theorem AtWhilePoll.repeats {later : List Call} {old s : State} (hs : AtWhilePoll later old s) (n : Nat) :
    ∃ m t, n ≤ m ∧ Host.Core.run Sys2Proof.core m s = .next t ∧ AtWhilePoll later old t := by
  induction n with
  | zero => exact ⟨0, s, le_rfl, rfl, hs⟩
  | succ n ih =>
    obtain ⟨m, t, hnm, hm, ht⟩ := ih
    obtain ⟨k, u, hk, hrun, hu⟩ := ht.comes_back
    exact ⟨m + k, u, by omega, (run_add k m s hm).trans hrun, hu⟩

end Sys2Proof.Machine

namespace Sys2Proof.Proofs

open Sys2Proof.Machine

/-- Settles O49: the `while` poll runs to its end with no answer, and `DISCOVER` returns. -/
theorem silentBusEndsTheRunAfterOnePoll : Obligations.SilentBusEndsTheRunAfterOnePoll := by
  intro s later hr hu huart ho hsilent
  have hs : Calm s := ⟨hr, hu, huart⟩
  have hcall := performs_discover.quietRun hs ho <| Eq.trans (runLines_goOn rfl) <|
    Eq.trans (runLines_goOn rfl) (discover_run_to_whilePoll 253)
  obtain ⟨t, ht⟩ := pollRange_run hcall.calm rfl
  have hans : t.ctl.answer = false := by
    rw [ht.answer, Draw.untilBreak_fst, hcall.rx, hsilent]
  have hend := performs_discover.quietRun ht.calm ht.ops
    (discover_run_of_silence (s := t.resumed later) 255 hans)
  obtain ⟨n, hn⟩ := (hcall.reaches.trans ht.reaches).trans hend.reaches
  refine ⟨n, _, hn, ?ctl, rfl, ht.resp, ?wire⟩
  case ctl =>
    have hctl := ht.ctl
    rw [hans] at hctl
    exact congrArg (fun c => { c with seq := SeqPos.boundary }) hctl
  case wire =>
    refine ht.wire.trans ?_
    rw [pollFlags_of_empty rfl]
    rfl

/-- Settles O50: the run comes back to its `while` poll, and to come back takes a step. -/
theorem noiseCanRepeatForEver : Obligations.NoiseCanRepeatForEver := by
  intro s later hr hu huart ho hrx n
  have hstart := performs_discover.quietRun ⟨hr, hu, huart⟩ ho (discover_run_to_whilePoll 255)
  have hpoll : AtWhilePoll later s _ := ⟨hstart.calm, rfl, hstart.rx.trans hrx, rfl, rfl, rfl⟩
  obtain ⟨k, hk⟩ := hstart.reaches
  obtain ⟨m, t, hnm, hm, ht⟩ := hpoll.repeats n
  exact ⟨k + m, t, Nat.le_add_left_of_le hnm, (run_add m k s hk).trans hm, ht.ops, ht.dl, ht.dlCount,
    ht.resp, ht.rx.trans hrx.symm⟩

end Sys2Proof.Proofs

/-! SUPPORT. The frame-sync machine (spec 43_frame_sync.md R230 to R239): what a received character is in each
state of a device, what its lines and those of the start codes leave, and the obligations on them. -/

namespace Sys2Proof.Machine

/-! ### The lines an operation executes -/

/-- What a last line that calls leaves, written out: the operation called in place of the one that ends. -/
theorem runLines_last_eq {i : Instr} {lines : Nat → State → LineEnd} {fuel k : Nat} {s s' t : State}
    {im : Image} (h : lines k s = .last im s') (ht : t = { s' with ops := ⟨im, 0⟩ :: s'.ops } := by rfl) :
    runLines i lines (fuel + 1) none k s = .next t :=
  ht ▸ runLines_last h

/-! ### A received character at a device (R230) -/

theorem receiveLines_of_device {s : State} (c : RxChar) (k : Nat) (hr : s.par.role = .device) :
    receiveLines c k s = deviceLines c k s := by
  simp only [receiveLines, hr]

theorem deviceLines_keep_par (c : RxChar) (k : Nat) (s : State) :
    (deviceLines c k s).Leaves fun s' => s'.par = s.par := by
  refine (deviceLines_frame c k s).mono ?_
  rintro s' ⟨_, _, _, _, rfl⟩
  rfl

/-- At a device the lines that a received character runs are those of the device's loop, to the end: none of
them changes the role. -/
theorem runLines_receive_of_device {i : Instr} (c : RxChar) (fuel : Nat) : ∀ (k : Nat) {s : State},
    s.par.role = .device →
    runLines i (receiveLines c) fuel none k s = runLines i (deviceLines c) fuel none k s := by
  induction fuel with
  | zero => exact fun _ _ _ => rfl
  | succ fuel ih =>
    intro k s hr
    have hpar := deviceLines_keep_par c k s
    simp only [runLines, receiveLines_of_device c k hr]
    cases hl : deviceLines c k s with
    | goOn k' s' =>
      rw [hl] at hpar
      exact ih k' ((congrArg Params.role hpar).trans hr)
    | hold | call | last | ret | stop => rfl

/-- The state after the first line of an iteration: its address is drawn from the pins (R46, R230). -/
def State.addressed (s : State) : State :=
  { s.started with
    dev := { s.dev with addr := deviceAddress s.env.pins.next.1 }
    env := { s.started.env with pins := s.env.pins.next.2 } }

/-- Executed at a device and not stopped, a received character runs the device's lines from the one that
finds its case. -/
theorem exec_rx_of_device {s : State} (c : RxChar) (hr : s.par.role = .device) (h : s.runsFrom 0 = true) :
    exec c.instr s = runLines c.instr (deviceLines c) 255 none 1 s.addressed := by
  have hlines := runLines_receive_of_device (i := c.instr) c shortRun 0 (s := s.started) hr
  rw [exec_rx, perform_of_runsFrom h, hlines]
  exact runLines_goOn rfl

/-! ### The case a character is (R231 to R239) -/

section
variable {s : State} {b : Byte}

theorem deviceCase_of_break (hfs : s.dev.fs = .idle ∨ s.dev.fs = .synced) :
    deviceCase ⟨0, true⟩ s = .goOn 2 s := by
  obtain hfs | hfs := hfs
  all_goals
    simp only [deviceCase, hfs]
    rfl

theorem deviceCase_of_stray (hfs : s.dev.fs = .idle ∨ s.dev.fs = .synced) (hb : b ≠ 0) :
    deviceCase ⟨b, true⟩ s = .ret s := by
  have hbreak : ¬(RxChar.isBreak ⟨b, true⟩ = true) := by simpa [RxChar.isBreak] using hb
  have hstray : RxChar.isStray ⟨b, true⟩ = true := by simpa [RxChar.isStray] using hb
  obtain hfs | hfs := hfs
  all_goals simp only [deviceCase, hfs, if_neg hbreak, if_pos hstray]

theorem deviceCase_of_idle_data (hfs : s.dev.fs = .idle) : deviceCase ⟨b, false⟩ s = .ret s := by
  simp only [deviceCase, hfs]
  rfl

theorem deviceCase_of_synced_data (hfs : s.dev.fs = .synced) : deviceCase ⟨b, false⟩ s = .goOn 4 s := by
  simp only [deviceCase, hfs]
  rfl

theorem deviceCase_of_awaitSC (c : RxChar) (hfs : s.dev.fs = .awaitSC) :
    deviceCase c s = .last (encode (startCode c.b)) s := by
  simp only [deviceCase, hfs]

theorem deviceCase_of_pollRead (c : RxChar) (hfs : s.dev.fs = .pollRead) : deviceCase c s = .goOn 13 s := by
  simp only [deviceCase, hfs]

end

/-! ### The extraction window (R236) -/

/-- The change window is armed exactly if the value received differs from the one held. -/
theorem counter_changeWindow (s : State) (b : Byte) (c : CounterId) :
    State.counter { s with
      tmo := if b ≠ s.dev.devVal then (s.setCounter s.par.changeCtr.id s.par.tChange).tmo else s.tmo } c =
      if c = s.par.changeCtr.id ∧ b ≠ s.dev.devVal then s.par.tChange else s.counter c := by
  by_cases hb : b ≠ s.dev.devVal
  case pos => simp only [if_pos hb, ← setCounter_eq, counter_setCounter, and_iff_left hb]
  case neg => simp only [hb, and_false, if_false]

section
variable {i : Instr} {s : State} (c : RxChar) (fuel : Nat)

theorem device_run_past_other_slot (hslot : s.dev.slot ≠ s.dev.addr) :
    runLines i (deviceLines c) (fuel + 1) none 4 s = runLines i (deviceLines c) fuel none 10 s :=
  runLines_goOn (if_neg hslot)

/-- The own slot: its value is stored and driven out. How many lines are left turns on whether the change
window is armed. -/
theorem device_run_past_own_slot (hslot : s.dev.slot = s.dev.addr) :
    ∃ extra, runLines i (deviceLines c) (fuel + 6) none 4 s =
      runLines i (deviceLines c) (extra + fuel) none 10 { s with
        tmo := if c.b ≠ s.dev.devVal then (s.setCounter s.par.changeCtr.id s.par.tChange).tmo else s.tmo
        dev := { s.dev with devVal := c.b, duty := c.b }
        out := { s.out with duty := s.out.duty ++ [c.b] } } := by
  by_cases hb : c.b ≠ s.dev.devVal
  case pos =>
    refine ⟨0, Eq.trans (runLines_goOn (if_pos hslot)) <| Eq.trans (runLines_goOn (if_pos hb)) <|
      Eq.trans (runLines_goOn rfl) ?_⟩
    rw [setCounter_eq, if_pos hb, Nat.zero_add]
    exact Eq.trans (runLines_goOn rfl) <| Eq.trans (runLines_goOn rfl) (runLines_goOn rfl)
  case neg =>
    refine ⟨1, Eq.trans (runLines_goOn (if_pos hslot)) <| Eq.trans (runLines_goOn (if_neg hb)) ?_⟩
    rw [if_neg hb, Nat.add_comm 1]
    exact Eq.trans (runLines_goOn rfl) <| Eq.trans (runLines_goOn rfl) (runLines_goOn rfl)

/-- The slot counter's advance, from 512 to 0. -/
theorem device_run_advance : runLines i (deviceLines c) (fuel + 2) none 10 s = .next { s with
    dev := { s.dev with slot := if s.dev.slot.toNat + 1 > 512 then 0 else s.dev.slot + 1 } } := by
  by_cases hwrap : s.dev.slot.toNat + 1 > 512
  case pos =>
    rw [if_pos hwrap]
    exact Eq.trans (runLines_goOn (if_pos (decide_eq_true hwrap))) (runLines_ret rfl)
  case neg =>
    rw [if_neg hwrap]
    have htest : ¬slotWraps s.dev.slot = true := by simpa [slotWraps, Config.nAddr] using hwrap
    exact Eq.trans (runLines_goOn (if_neg htest)) (runLines_ret rfl)

/-! ### The positional read of a poll frame (R235) -/

/-- The capture at the latched position. How many lines are left turns on whether it is this one. -/
theorem device_run_past_capture : ∃ extra, runLines i (deviceLines c) (fuel + 2) none 13 s =
    runLines i (deviceLines c) (extra + fuel) none 15 { s with
      dev := { s.dev with pollCap := if s.dev.pollIdx = s.dev.pollAddr then c.b else s.dev.pollCap } } := by
  by_cases hown : s.dev.pollIdx = s.dev.pollAddr
  case pos =>
    refine ⟨0, Eq.trans (runLines_goOn (if_pos hown)) <| Eq.trans (runLines_goOn rfl) ?_⟩
    rw [if_pos hown, Nat.zero_add]
  case neg =>
    refine ⟨1, Eq.trans (runLines_goOn (if_neg hown)) ?_⟩
    rw [if_neg hown, Nat.add_comm 1]

theorem device_run_next_position (hidx : s.dev.pollIdx ≠ 512) :
    runLines i (deviceLines c) (fuel + 2) none 15 s = .next { s with
      dev := { s.dev with pollIdx := s.dev.pollIdx + 1 } } := by
  have htest : ¬s.dev.pollIdx.toNat = Config.nAddr := fun h => hidx (BitVec.eq_of_toNat_eq h)
  exact Eq.trans (runLines_goOn (if_neg htest)) (runLines_ret rfl)

/-- After position 512: `Idle`, and the response if something nonzero was captured. -/
theorem device_run_last_position (hidx : s.dev.pollIdx = 512) :
    runLines i (deviceLines c) (fuel + 3) none 15 s = .next { s with
      dev := { s.dev with fs := .idle }
      ops := if s.dev.pollCap ≠ 0 then ⟨encode .bareBreak, 0⟩ :: s.ops else s.ops } := by
  refine Eq.trans (runLines_goOn (if_pos (congrArg BitVec.toNat hidx))) <|
    Eq.trans (runLines_goOn rfl) ?_
  by_cases hcap : s.dev.pollCap ≠ 0
  case pos =>
    rw [if_pos hcap]
    exact runLines_last_eq (if_pos hcap)
  case neg =>
    rw [if_neg hcap]
    exact runLines_ret (if_neg hcap)

end

/-! ### The start codes (R233) -/

/-- Arming the no-data counter leaves the change counter, which is red or green. -/
theorem changeCounter_setCounter_noData (s : State) (n : Nat) :
    (s.setCounter .noData n).changeCounter = s.counter s.par.changeCtr.id := by
  have hne : s.par.changeCtr.id ≠ .noData := by cases s.par.changeCtr <;> decide
  rw [changeCounter_eq, counter_setCounter]
  exact if_neg hne

end Sys2Proof.Machine

namespace Sys2Proof.Proofs

open Sys2Proof.Machine

/-- Settles O52: the one line of `FS_STEP` either holds or calls. -/
theorem fsStepConsumesOneCharacter : Obligations.FsStepConsumesOneCharacter := by
  intro s hr hk
  have hexec := exec_of_inRole_perform (i := .fsStep) rfl hr hk
  refine ⟨fun hnone => hexec.trans ?nothing, fun c hsome => hexec.trans ?character⟩
  case nothing =>
    have hl : fsStepLines 0 s.started = .hold s.started.drawRx.2 := by
      simp only [fsStepLines, show s.started.drawRx.1 = none from hnone]
    exact runLines_hold hl
  case character =>
    have hl : fsStepLines 0 s.started = .call c.instr 0 s.started.drawRx.2 := by
      simp only [fsStepLines, show s.started.drawRx.1 = some c from hsome]
    exact runLines_call_eq hl

/-- Settles O53: the case of the character either ends the iteration or leads to the two lines that
resynchronise. -/
theorem breakResynchronisesOthersAreDropped : Obligations.BreakResynchronisesOthersAreDropped := by
  intro s addr env hr hk haddr henv
  subst haddr henv
  refine ⟨fun hfs => ?resync, fun hfs b hb => ?stray, fun hfs b => ?idleData⟩
  case resync =>
    refine (exec_rx_of_device ⟨0, true⟩ hr hk).trans ?_
    exact Eq.trans (runLines_goOn (deviceCase_of_break hfs)) <| Eq.trans (runLines_goOn rfl)
      (runLines_ret rfl)
  case stray =>
    rw [← instr_of_stray hb, exec_rx_of_device _ hr hk]
    exact runLines_ret (deviceCase_of_stray hfs hb)
  case idleData =>
    rw [← instr_of_data, exec_rx_of_device _ hr hk]
    exact runLines_ret (deviceCase_of_idle_data hfs)

/-- Settles O54: the own slot's value is extracted, any other slot's is not, and the counter advances. -/
theorem syncedDataIsExtracted : Obligations.SyncedDataIsExtracted := by
  intro s b hr hk hfs
  have hexec : exec (.rxData b) s = _ := instr_of_data b ▸ exec_rx_of_device ⟨b, false⟩ hr hk
  have hcase := hexec.trans (runLines_goOn (deviceCase_of_synced_data hfs))
  by_cases hslot : s.dev.slot = deviceAddress s.env.pins.next.1
  case pos =>
    obtain ⟨extra, hown⟩ := device_run_past_own_slot (i := RxChar.instr ⟨b, false⟩) ⟨b, false⟩ 248
      (s := s.addressed) hslot
    refine ⟨_, hcase.trans (hown.trans (device_run_advance _ (extra + 246))), rfl, rfl,
      fun _ => ⟨rfl, rfl, rfl, counter_changeWindow s.addressed b⟩, (absurd hslot ·), rfl⟩
  case neg =>
    exact ⟨_, hcase.trans ((device_run_past_other_slot _ 253 hslot).trans (device_run_advance _ 251)), rfl,
      rfl, (absurd · hslot), fun _ => ⟨rfl, rfl, rfl, rfl⟩, rfl⟩

/-- Settles O55: the case of `AwaitSC` looks at the value only. -/
theorem awaitSCTakesAnyCharacterAsStartCode : Obligations.AwaitSCTakesAnyCharacterAsStartCode := by
  intro s c hr hk hfs
  exact (exec_rx_of_device c hr hk).trans (runLines_last_eq (deviceCase_of_awaitSC c hfs))

/-- Settles O56: three writes, and the indicator's as its test says. -/
theorem dataStartCodeSynchronises : Obligations.DataStartCodeSynchronises := by
  intro s hr hk
  refine (exec_of_inRole_perform rfl hr hk).trans ?_
  refine Eq.trans (runLines_goOn rfl) <| Eq.trans (runLines_goOn rfl) <| Eq.trans (runLines_goOn rfl) ?_
  by_cases hctr : s.counter s.par.changeCtr.id = 0
  case pos =>
    rw [if_pos hctr]
    refine Eq.trans (runLines_goOn (if_pos ?_)) (runLines_ret rfl)
    exact (changeCounter_setCounter_noData _ _).trans hctr
  case neg =>
    rw [if_neg hctr]
    exact runLines_ret (if_neg fun h => hctr ((changeCounter_setCounter_noData _ _).symm.trans h))

/-- Settles O58: every line of the two operations is a write. -/
theorem otherStartCodes : Obligations.OtherStartCodes := by
  intro s hr hk
  refine ⟨(exec_of_inRole_perform rfl hr hk).trans ?poll, fun b _ _ =>
    (exec_of_inRole_perform rfl hr hk).trans ?other⟩
  case poll =>
    exact Eq.trans (runLines_goOn rfl) <| Eq.trans (runLines_goOn rfl) (runLines_ret rfl)
  case other => exact runLines_ret rfl

/-- Settles O59: the capture, and then the advance or the end of the poll frame. -/
theorem pollReadCountsPositions : Obligations.PollReadCountsPositions := by
  intro s c cap hr hk hfs hcap
  subst hcap
  have hcase := (exec_rx_of_device c hr hk).trans (runLines_goOn (deviceCase_of_pollRead c hfs))
  obtain ⟨extra, hcapture⟩ := device_run_past_capture (i := c.instr) c 252 (s := s.addressed)
  have hrun := hcase.trans hcapture
  exact ⟨fun hidx => hrun.trans (device_run_next_position c (extra + 250) hidx),
    fun hidx => hrun.trans (device_run_last_position c (extra + 249) hidx)⟩

end Sys2Proof.Proofs

/-! SUPPORT. A device that nothing disturbs (spec 43_frame_sync.md R230, R240): how it takes one character after
another, what it has extracted after each, and the obligation on them. -/

namespace Sys2Proof.Machine

/-! ### A step that nothing disturbs -/

/-- The state in which the operation called last is executed from its first line: the boundary's draw is taken,
and it is called no more. -/
def State.entered (s : State) (later : List Call) : State :=
  { s.drawEvent.2 with ops := later, line := 0 }

section
variable {s : State} {later : List Call}

theorem undisturbed_iff : s.undisturbed = true ↔ s.pendTick = false ∧ s.ctl.pendDrain = false ∧
    s.env.events.all Event.isQuiet = true ∧ s.env.cut.all Option.isNone = true := by
  simp only [State.undisturbed, Bool.and_eq_true, Bool.not_eq_true', and_assoc]

theorem undisturbed_started (hu : s.undisturbed = true) : s.started.undisturbed = true := by
  obtain ⟨htick, hdrain, hevents, hcut⟩ := undisturbed_iff.1 hu
  exact undisturbed_iff.2 ⟨htick, hdrain, hevents, (Draw.all_next hcut).2⟩

theorem undisturbed_entered (hu : s.undisturbed = true) : (s.entered later).undisturbed = true := by
  obtain ⟨htick, hdrain, hevents, hcut⟩ := undisturbed_iff.1 hu
  exact undisturbed_iff.2 ⟨htick, hdrain, (Draw.all_next hevents).2, hcut⟩

theorem runsFrom_entered (hu : s.undisturbed = true) : (s.entered later).runsFrom 0 = true := by
  obtain ⟨-, -, -, hcut⟩ := undisturbed_iff.1 hu
  exact (Draw.all_next hcut).1

/-- `Performs.step_eq` is the controller's; here `i` is of either role. -/
theorem step_eq_exec_entered {i : Instr} (hu : s.undisturbed = true) (ho : s.ops = ⟨encode i, 0⟩ :: later)
    (hd : decode (encode i) = .ok i) : step s = exec i (s.entered later) := by
  obtain ⟨htick, hdrain, hevents, -⟩ := undisturbed_iff.1 hu
  obtain ⟨hrun, -⟩ := Proofs.stepRunsDecodedInstruction s htick hdrain (Draw.all_next hevents).1
  exact hrun _ later i ho hd

end

/-! ### One character after another (R230) -/

/-- A device that nothing disturbs, with pins `p` for ever and the operations `calls` called: it has put
nothing on the wire since `old`, and will receive the characters `next` and then what `old` receives after its first ones. -/
structure Listening (p : Pins) (old : State) (next : List (Option RxChar)) (calls : List Call)
    (s : State) : Prop where
  role : s.par.role = .device
  undisturbed : s.undisturbed = true
  pins : (s.env.pins.all fun q => decide (q = p)) = true
  ops : s.ops = calls
  rx : s.env.rx = { old.env.rx with now := next }
  wire : s.out.wire = old.out.wire

section
variable {p : Pins} {old s : State} {next : List (Option RxChar)} {calls : List Call} {c : RxChar}

theorem Listening.pins_next (hs : Listening p old next calls s) : s.env.pins.next.1 = p :=
  of_decide_eq_true (Draw.all_next hs.pins).1

/-- The operation called last is executed, and what it leaves is reached. -/
theorem Listening.executes {i : Instr} (hs : Listening p old next (⟨encode i, 0⟩ :: calls) s)
    (hd : decode (encode i) = .ok i) :
    ∃ v, Listening p old next calls v ∧ v.runsFrom 0 = true ∧ v.dev = s.dev ∧
      ∀ t, exec i v = .next t → Reaches s t :=
  ⟨s.entered calls,
    ⟨hs.role, undisturbed_entered hs.undisturbed, hs.pins, rfl, hs.rx, hs.wire⟩,
    runsFrom_entered hs.undisturbed, rfl,
    fun _ ht => .of_step ((step_eq_exec_entered hs.undisturbed hs.ops hd).trans ht)⟩

/-- An operation of the device that writes no more than this, and takes no draw but the pins, leaves it
listening. -/
theorem Listening.of_writes (hs : Listening p old next calls s) (tmo : Counters) (dev : Device)
    (duty : List Byte) {ops calls' : List Call} {pins : Draw Pins} (hops : ops = calls')
    (hpins : (pins.all fun q => decide (q = p)) = true) :
    Listening p old next calls' { s.started with
      tmo := tmo, dev := dev, ops := ops
      env := { s.started.env with pins := pins }
      out := { s.out with duty := duty } } :=
  ⟨hs.role, undisturbed_started hs.undisturbed, hpins, hops, hs.rx, hs.wire⟩

/-- `FS_STEP` takes a character and calls its operation. -/
theorem Listening.takes (hs : Listening p old (some c :: next) [⟨encode .fsStep, 0⟩] s) :
    ∃ u, Reaches s u ∧ Listening p old next [⟨encode c.instr, 0⟩, ⟨encode .fsStep, 0⟩] u ∧
      u.dev = s.dev := by
  obtain ⟨v, hv, hk, hdev, hreach⟩ := hs.executes rfl
  have hnext : v.env.rx.next = (some c, { old.env.rx with now := next }) := congrArg Draw.next hv.rx
  obtain ⟨-, htake⟩ := Proofs.fsStepConsumesOneCharacter v hv.role hk
  exact ⟨_, hreach _ (htake c (congrArg Prod.fst hnext)),
    ⟨hv.role, undisturbed_started hv.undisturbed, hv.pins, congrArg (_ :: _ :: ·) hv.ops,
      congrArg Prod.snd hnext, hv.wire⟩, hdev⟩

/-- `FS_STEP` takes a character, whose operation is executed, and what it leaves is reached. -/
theorem Listening.receives (hs : Listening p old (some c :: next) [⟨encode .fsStep, 0⟩] s) :
    ∃ v, Listening p old next [⟨encode .fsStep, 0⟩] v ∧ v.runsFrom 0 = true ∧ v.dev = s.dev ∧
      ∀ t, exec c.instr v = .next t → Reaches s t := by
  obtain ⟨u, hu, hcalled, hdev⟩ := hs.takes
  obtain ⟨v, hv, hk, hdev', hreach⟩ := hcalled.executes (decode_encode_rx c)
  exact ⟨v, hv, hk, hdev'.trans hdev, fun t ht => hu.trans (hreach t ht)⟩

/-- In `Idle` and `Synced` a Break leads to `AwaitSC` (R231). -/
theorem Listening.reaches_awaitSC (hs : Listening p old (some ⟨0, true⟩ :: next) [⟨encode .fsStep, 0⟩] s)
    (hfs : s.dev.fs = .idle ∨ s.dev.fs = .synced) :
    ∃ t, Reaches s t ∧ Listening p old next [⟨encode .fsStep, 0⟩] t ∧ t.dev.fs = .awaitSC := by
  obtain ⟨v, hv, hk, hdev, hreach⟩ := hs.receives
  obtain ⟨hresync, -⟩ := Proofs.breakResynchronisesOthersAreDropped v _ _ hv.role hk rfl rfl
  exact ⟨_, hreach _ (hresync (hdev ▸ hfs)),
    hv.of_writes _ _ _ hv.ops (Draw.all_next hv.pins).2, rfl⟩

/-- In `AwaitSC` the data start code leads to `Synced` and slot 1 (R233). -/
theorem Listening.reaches_synced (hs : Listening p old (some ⟨0, false⟩ :: next) [⟨encode .fsStep, 0⟩] s)
    (hfs : s.dev.fs = .awaitSC) :
    ∃ t, Reaches s t ∧ Listening p old next [⟨encode .fsStep, 0⟩] t ∧ t.dev.fs = .synced ∧
      t.dev.slot = 1 := by
  obtain ⟨v, hv, hk, hdev, hreach⟩ := hs.receives
  have hcode := Proofs.awaitSCTakesAnyCharacterAsStartCode v ⟨0, false⟩ hv.role hk (hdev ▸ hfs)
  have hcalled := hv.of_writes v.tmo { v.dev with addr := deviceAddress v.env.pins.next.1 }
    v.out.duty (congrArg (⟨encode .scData, 0⟩ :: ·) hv.ops) (Draw.all_next hv.pins).2
  obtain ⟨w, hw, hk', -, hreach'⟩ := hcalled.executes rfl
  exact ⟨_, (hreach _ hcode).trans (hreach' _ (Proofs.dataStartCodeSynchronises w hw.role hk')),
    hw.of_writes _ _ _ hw.ops hw.pins, rfl, rfl⟩

end

/-! ### The data of a frame (R236) -/

/-- Inside a data frame after the characters `seen`, with those of `left` to come: the slot counts them, and
the one at the device's address, if it has come, is extracted. -/
structure Extracting (p : Pins) (old : State) (seen left : List Byte) (s : State) : Prop where
  listening : Listening p old (left.map fun b => some ⟨b, false⟩) [⟨encode .fsStep, 0⟩] s
  fs : s.dev.fs = .synced
  slot : s.dev.slot.toNat = seen.length + 1
  extracted : (deviceAddress p).toNat ≤ seen.length →
    seen[(deviceAddress p).toNat - 1]? = some s.dev.devVal ∧ s.dev.duty = s.dev.devVal

section
variable {p : Pins} {old : State}

theorem one_le_deviceAddress (p : Pins) : 1 ≤ (deviceAddress p).toNat := by
  have hlt := p.isLt
  rw [toNat_deviceAddress]
  omega

theorem toNat_slot_advance {a : Addr} {n : Nat} (ha : a.toNat = n) (hn : n < 512) :
    (if a.toNat + 1 > 512 then 0 else a + 1 : Addr).toNat = n + 1 := by
  rw [if_neg (by omega)]
  bv_omega

/-- One more character of the frame. -/
theorem Extracting.next {seen left : List Byte} {b : Byte} {s : State}
    (hs : Extracting p old seen (b :: left) s) (hlen : seen.length + 1 < 512) :
    ∃ t, Reaches s t ∧ Extracting p old (seen ++ [b]) left t := by
  obtain ⟨v, hv, hk, hdev, hreach⟩ := hs.listening.receives
  have haddr := one_le_deviceAddress p
  have hslot := hs.slot
  have hextracted := hs.extracted
  rw [← hdev] at hslot hextracted
  obtain ⟨t, hexec, hslot', -, hown, hother, ht⟩ :=
    Proofs.syncedDataIsExtracted v b hv.role hk ((congrArg Device.fs hdev).trans hs.fs)
  rw [hv.pins_next] at hown hother
  refine ⟨t, hreach t (instr_of_data b ▸ hexec), ?listening, ?fs, ?slot, fun hle => ?value⟩
  case listening =>
    rw [ht]
    exact hv.of_writes _ _ _ hv.ops (Draw.all_next hv.pins).2
  case fs => exact (congrArg (fun t => t.dev.fs) ht).trans ((congrArg Device.fs hdev).trans hs.fs)
  case slot =>
    rw [hslot', toNat_slot_advance hslot hlen, List.length_append]
    rfl
  case value =>
    rw [List.length_append, List.length_singleton] at hle
    by_cases heq : v.dev.slot = deviceAddress p
    case pos =>
      obtain ⟨hval, hduty, -, -⟩ := hown heq
      have hidx : (deviceAddress p).toNat - 1 = seen.length := by rw [← heq, hslot]; rfl
      rw [hval, hduty, hidx]
      exact ⟨List.getElem?_concat_length, rfl⟩
    case neg =>
      obtain ⟨hval, hduty, -, -⟩ := hother heq
      have hne : v.dev.slot.toNat ≠ (deviceAddress p).toNat := BitVec.toNat_ne_iff_ne.2 heq
      rw [hval, hduty, List.getElem?_append_left (by omega)]
      exact hextracted (by omega)

/-- All the characters to come, one after another. -/
theorem Extracting.all (left : List Byte) : ∀ {seen : List Byte} {s : State},
    Extracting p old seen left s → seen.length + left.length < 512 →
    ∃ t, Reaches s t ∧ Extracting p old (seen ++ left) [] t := by
  induction left with
  | nil => exact fun {seen s} hs _ => ⟨s, ⟨0, rfl⟩, by rwa [List.append_nil]⟩
  | cons b left ih =>
    intro seen s hs hlen
    rw [List.length_cons] at hlen
    obtain ⟨u, hu, hnext⟩ := hs.next (by omega)
    obtain ⟨t, ht, hall⟩ := ih hnext (by rw [List.length_append, List.length_singleton]; omega)
    exact ⟨t, hu.trans ht, by rwa [List.append_cons]⟩

end

end Sys2Proof.Machine

namespace Sys2Proof.Proofs

open Sys2Proof.Machine

/-- Settles O60: the Break and the start code synchronise the device; then the data, by induction on what is
left of it. -/
theorem deviceHealsAtEachBreak : Obligations.DeviceHealsAtEachBreak := by
  intro s p data hr hu ho hfs hpins hlen hrx
  have hs : Listening p s (some ⟨0, true⟩ :: some ⟨0, false⟩ :: data.map fun b => some ⟨b, false⟩)
      [⟨encode .fsStep, 0⟩] s :=
    ⟨hr, hu, hpins, ho, by rw [← hrx], rfl⟩
  obtain ⟨u, hbreak, hu, hawait⟩ := hs.reaches_awaitSC hfs
  obtain ⟨v, hcode, hv, hsynced, hslot⟩ := hu.reaches_synced hawait
  have haddr := one_le_deviceAddress p
  have hstart : Extracting p s [] data v :=
    ⟨hv, hsynced, congrArg BitVec.toNat hslot, fun h => absurd (haddr.trans h) (by decide)⟩
  obtain ⟨t, hdata, ht⟩ := hstart.all data (by simpa using hlen)
  obtain ⟨n, hn⟩ := (hbreak.trans hcode).trans hdata
  exact ⟨n, t, hn, ht.fs, ht.slot, ht.extracted, ht.listening.ops, ht.listening.rx, ht.listening.wire⟩

end Sys2Proof.Proofs

/-! SUPPORT. The transmit ring (spec 44_ring_buffer.md R270 to R275): the bytes held, what a line and a step can
do to them, an `ENQ` that nothing drains, and the obligations on the ring. -/

namespace Sys2Proof.Machine

/-! ### The bytes held (R32) -/

theorem ringCount_lt (head tail : Byte) : ringCount head tail < 256 := (head - tail).isLt

theorem ringCount_self (head : Byte) : ringCount head head = 0 := by
  simp [ringCount]

theorem ringCount_head_succ {head tail : Byte} (h : head + 1 ≠ tail) :
    ringCount (head + 1) tail = ringCount head tail + 1 := by
  unfold ringCount
  bv_omega

theorem ringCount_tail_succ {head tail : Byte} (h : head ≠ tail) :
    ringCount head tail = ringCount head (tail + 1) + 1 := by
  unfold ringCount
  bv_omega

theorem tail_add_ringCount (head tail : Byte) : tail + BitVec.ofNat 8 (ringCount head tail) = head := by
  unfold ringCount
  bv_omega

theorem tail_add_ne_head {head tail : Byte} {k : Nat} (h : k < ringCount head tail) :
    tail + BitVec.ofNat 8 k ≠ head := by
  unfold ringCount at h
  bv_omega

theorem add_one_add_ofNat (i : Byte) (k : Nat) : i + 1 + BitVec.ofNat 8 k = i + BitVec.ofNat 8 (k + 1) := by
  bv_omega

/-- E2 writes beside the bytes held. -/
theorem held_ringWrite_head (s : State) (b : Byte) : (s.ringWrite s.ctl.head b).held = s.held :=
  List.map_congr_left fun _ hk =>
    (ringRead_ringWrite ..).trans (if_neg (tail_add_ne_head (List.mem_range.1 hk)))

/-- E3 adds the byte at `head` to those held. -/
theorem held_head_succ {s : State} (h : s.ctl.head + 1 ≠ s.ctl.tail) :
    ({ s with ctl := { s.ctl with head := s.ctl.head + 1 } } : State).held =
      s.held ++ [s.ringRead s.ctl.head] := by
  simp only [State.held, ringCount_head_succ h, List.range_succ, List.map_append, List.map_singleton,
    tail_add_ringCount]
  rfl

/-- The oldest byte held is the one at `tail`. -/
theorem held_eq_cons {s : State} (h : s.ctl.head ≠ s.ctl.tail) :
    s.held = s.ringRead s.ctl.tail ::
      ({ s with ctl := { s.ctl with tail := s.ctl.tail + 1 } } : State).held := by
  simp only [State.held, ringCount_tail_succ h, List.range_succ_eq_map, List.map_cons, List.map_map]
  exact congrArg₂ List.cons (congrArg s.ringRead (BitVec.add_zero _))
    (List.map_congr_left fun k _ => congrArg s.ringRead (add_one_add_ofNat s.ctl.tail k).symm)

/-! ### What one step can do to the bytes put out and held (R273) -/

/-- The bytes handed to the console so far, and the bytes held. -/
def State.stream (s : State) : List Byte × List Byte := (s.out.console, s.held)

/-- What one step can do to them: store some bytes after those held, or hand the oldest to the console. -/
inductive RingChange (old : List Byte × List Byte) : List Byte × List Byte → Prop where
  | stored (bytes : List Byte) : RingChange old (old.1, old.2 ++ bytes)
  | drained (b : Byte) (rest : List Byte) (h : old.2 = b :: rest) : RingChange old (old.1 ++ [b], rest)

theorem RingChange.of_eq {old new : List Byte × List Byte} (h : new = old) : RingChange old new := by
  simpa [h] using RingChange.stored (old := old) []

/-! ### `DRAIN_ONE` (R271) and `TICK` -/

theorem exec_drainOne {s : State} (hr : s.par.role = .controller) : exec .drainOne s =
    .next { drainBody s with ctl := { (drainBody s).ctl with pendDrain := false } } :=
  inRole_of_role _ hr

/-- The drainer takes the oldest byte held, if there is one. -/
theorem ringChange_of_exec_drainOne {s t : State} (h : exec .drainOne s = .next t) :
    RingChange s.stream t.stream := by
  obtain ⟨-, ht⟩ := inRole_eq_next.1 h
  cases ht
  by_cases he : s.ctl.head = s.ctl.tail
  · rw [drainBody_eq, if_pos he]
    exact .of_eq rfl
  · rw [drainBody_eq, if_neg he]
    exact .drained _ _ (held_eq_cons he)

theorem stream_tickCounter (c : CounterId) (s : State) : (tickCounter c s).stream = s.stream := by
  rw [tickCounter_eq]; rfl

theorem ringChange_of_exec_tick {s t : State} (h : exec .tick s = .next t) :
    RingChange s.stream t.stream := by
  cases h
  exact .of_eq <| (stream_tickCounter ..).trans <| (stream_tickCounter ..).trans (stream_tickCounter ..)

/-! ### `ENQUEUE` (R270) -/

/-- `full = 0` is right: one more write does not make `head` collide with `tail`. -/
def Room (s : State) : Prop := s.ctl.full = true ∨ s.ctl.head + 1 ≠ s.ctl.tail

/-- What the numbered step that is next needs of the ring, so that no byte held is lost (R273): E5 must not
clear `full` with a `tail` so old that the ring has filled since. -/
def EnqCall.Fits (c : EnqCall) (s : State) : Prop :=
  match c.at_ with
  | .e1 => Room s
  | .e2 | .e3 => s.ctl.head + 1 ≠ s.ctl.tail
  | .e4 => True
  | .e5 => ringCount s.ctl.tail c.t ≤ ringCount s.ctl.head c.t

/-- What line `k` of an `ENQ` needs of the ring: a call begins at E1, and only line 2 stands past it. -/
def EnqFits (k : Nat) (s : State) : Prop :=
  match s.ctl.enq with
  | none => k = 0 → Room s
  | some c => c.Fits s ∧ (k = 2 ∨ c.at_ = .e1)

/-- At E5 with a `tail` no newer than the current one, `full` is not cleared wrongly. -/
theorem room_of_stale_tail {head tail t : Byte} (h : ringCount tail t ≤ ringCount head t) :
    ringFull head t = true ∨ head + 1 ≠ tail := by
  unfold ringCount at h
  unfold ringFull
  by_cases ht : head + 1 = t
  · exact .inl (decide_eq_true ht)
  · refine .inr ?_
    bv_omega

theorem fits_of_enqFits {k : Nat} {s : State} {c : EnqCall} (h : EnqFits k s) (he : s.ctl.enq = some c) :
    c.Fits s ∧ (k = 2 ∨ c.at_ = .e1) := by
  simpa only [EnqFits, he] using h

theorem room_of_enqFits {s : State} (h : EnqFits 0 s) : Room s := by
  cases he : s.ctl.enq with
  | none => simpa [EnqFits, he] using h
  | some c =>
    obtain ⟨hfits, h2 | h1⟩ := fits_of_enqFits h he
    · cases h2
    · simpa only [EnqCall.Fits, h1] using hfits

/-- A numbered step leaves the ring as the next one needs it; E3 adds the byte at `head` to those held. -/
theorem enqStep_stores {c : EnqCall} {s : State} (h : c.Fits s) :
    ∃ k u, enqStep c s = .goOn k u ∧ EnqFits k u ∧ s.held <+: u.held := by
  obtain ⟨left, at_, t⟩ := c
  cases left with
  | nil =>
    have hdone : enqStep ⟨[], at_, t⟩ s = .goOn enqDone (s.setEnq none) := by cases at_ <;> rfl
    exact ⟨_, _, hdone, nofun, List.prefix_rfl⟩
  | cons b rest =>
    cases at_ with
    | e1 =>
      cases hf : s.ctl.full with
      | true => exact ⟨_, _, if_pos hf, nofun, List.prefix_rfl⟩
      | false =>
        have hroom : s.ctl.head + 1 ≠ s.ctl.tail := h.resolve_left (Bool.eq_false_iff.1 hf)
        exact ⟨_, _, if_neg (Bool.eq_false_iff.1 hf), ⟨hroom, .inl rfl⟩, List.prefix_rfl⟩
    | e2 => exact ⟨_, _, rfl, ⟨h, .inl rfl⟩, held_ringWrite_head s b ▸ List.prefix_rfl⟩
    | e3 => exact ⟨_, _, rfl, ⟨trivial, .inl rfl⟩, _, (held_head_succ h).symm⟩
    | e4 =>
      have hnew : ringCount s.ctl.tail s.ctl.tail ≤ ringCount s.ctl.head s.ctl.tail :=
        ringCount_self s.ctl.tail ▸ Nat.zero_le _
      exact ⟨_, _, rfl, ⟨hnew, .inl rfl⟩, List.prefix_rfl⟩
    | e5 => exact ⟨_, _, rfl, ⟨room_of_stale_tail h, .inr rfl⟩, List.prefix_rfl⟩

/-- A line of `ENQ` is the response, or goes on with the ring as the next line needs it. -/
theorem enqLines_store {k : Nat} {s : State} (bytes : List Byte) (h : EnqFits k s) :
    enqLines bytes k s = .ret (s.respond .ok) ∨
    ∃ k' u, enqLines bytes k s = .goOn k' u ∧ EnqFits k' u ∧ s.held <+: u.held := by
  unfold enqLines
  split
  next =>
    have hroom : Room s := room_of_enqFits h
    exact .inr ⟨_, _, rfl, ⟨hroom, .inr rfl⟩, List.prefix_rfl⟩
  next c he =>
    obtain ⟨hfits, -⟩ := fits_of_enqFits h he
    split
    · exact .inr ⟨_, _, rfl, nofun, List.prefix_rfl⟩
    · exact .inr ⟨_, _, rfl, by simpa only [EnqFits, he] using ⟨hfits, .inl trivial⟩, List.prefix_rfl⟩
  next c he =>
    obtain ⟨hfits, -⟩ := fits_of_enqFits h he
    exact .inr (enqStep_stores hfits)
  next c he =>
    obtain ⟨hfits, hat⟩ := fits_of_enqFits h he
    exact .inr ⟨_, _, rfl, ⟨hfits, hat.imp_left nofun⟩, List.prefix_rfl⟩
  next => exact .inl rfl

theorem held_prefix_of_enqLines {bytes : List Byte} {k : Nat} {s : State} {e : LineEnd} (h : EnqFits k s)
    (hl : enqLines bytes k s = e) : e.Leaves fun u => s.held <+: u.held := by
  rcases enqLines_store bytes h with hret | ⟨k', u, hgo, -, hheld⟩
  · rw [← hl, hret]
    exact List.prefix_rfl
  · rw [← hl, hgo]
    exact hheld

theorem enqFits_of_goOn {bytes : List Byte} {k k' : Nat} {s u : State} (h : EnqFits k s)
    (hl : enqLines bytes k s = .goOn k' u) : EnqFits k' u := by
  rcases enqLines_store bytes h with hret | ⟨_, _, hgo, hfits, -⟩
  · rw [hret] at hl
    cases hl
  · rw [hgo] at hl
    cases hl
    exact hfits

theorem held_prefix_of_perform_enq {bytes : List Byte} {fuel : Nat} {s t : State} (hs : EnqFits s.line s)
    (h : perform (.cmdEnq bytes) (enqLines bytes) fuel s = .next t) : s.held <+: t.held :=
  have hleave {k : Nat} {u : State} {e : LineEnd} (hu : EnqFits k u ∧ s.held <+: u.held)
      (hl : enqLines bytes k u = e) : e.Leaves fun u' => s.held <+: u'.held :=
    (held_prefix_of_enqLines hu.1 hl).mono fun _ => hu.2.trans
  runLines_induct (P := fun k u => EnqFits k u ∧ s.held <+: u.held) (Q := fun u => s.held <+: u.held)
    (fun _ _ hu => hu.2) (fun _ _ _ _ hu hl => ⟨enqFits_of_goOn hu.1 hl, hleave hu hl⟩)
    (fun _ _ _ hu hl => hleave hu hl) (fun _ _ _ _ _ hu hl => hleave hu hl)
    (fun _ _ _ _ hu hl => hleave hu hl) (fun _ _ _ hu hl => hleave hu hl)
    fuel _ _ s.started t ⟨hs, List.prefix_rfl⟩ h

theorem enqLines_keep_console (bytes : List Byte) (k : Nat) (s : State) :
    (enqLines bytes k s).Leaves fun u => u.out.console = s.out.console := by
  refine (enqLines_frame bytes k s).mono ?_
  rintro _ ⟨_, _, _, _, _, rfl⟩
  rfl

theorem ringChange_of_exec_cmdEnq {bytes : List Byte} {s t : State} (hs : EnqFits s.line s)
    (h : exec (.cmdEnq bytes) s = .next t) : RingChange s.stream t.stream := by
  obtain ⟨fuel, hp⟩ := perform_of_exec_next rfl h
  have hconsole : t.out.console = s.out.console :=
    perform_frame (fun _ _ => rfl) (enqLines_keep_console bytes) hp
  obtain ⟨stored, hstored⟩ := held_prefix_of_perform_enq hs hp
  rw [State.stream, State.stream, hconsole, ← hstored]
  exact .stored stored

/-! ### The other operations -/

theorem stream_setDe (s : State) (v : Bool) : (s.setDe v).stream = s.stream := by
  rw [setDe_eq]; rfl

theorem stream_setCounter (s : State) (c : CounterId) (n : Nat) : (s.setCounter c n).stream = s.stream := by
  rw [setCounter_eq]; rfl

theorem receiveLines_keep_stream (c : RxChar) (k : Nat) (s : State) :
    (receiveLines c k s).Leaves fun u => u.stream = s.stream := by
  unfold receiveLines
  split
  · refine (deviceLines_frame c k s).mono ?_
    rintro _ ⟨_, _, _, _, rfl⟩
    rfl
  · rfl

/-- `ENQ` apart, no line touches the ring or the console. -/
theorem lines_keep_stream {i : Instr} {lines : Nat → State → LineEnd} (hl : lines? i = some lines)
    (hi : ∀ bytes, i ≠ .cmdEnq bytes) (k : Nat) (s : State) :
    (lines k s).Leaves fun u => u.stream = s.stream := by
  cases i <;> cases hl
  case cmdEnq bytes => exact absurd rfl (hi bytes)
  case rxBreak | rxStrayFe | rxData => exact receiveLines_keep_stream _ k s
  case sendBreak | putSlot | releaseDe | bareBreak =>
    dsimp only [sendBreakLines, putSlotLines, releaseDeLines, bareBreakLines, branch, holdUntil, uartPutLine]
    (repeat' split) <;> simp only [LineEnd.Leaves, stream_setDe] <;> rfl
  case scData | scPoll | scOther =>
    dsimp only [scDataLines, scPollLines, scOtherLines]
    (repeat' split) <;> simp only [LineEnd.Leaves, stream_setCounter] <;> rfl
  case cmdSet | cmdGet | cmdMax | cmdOn | cmdOff | cmdPoll | cmdClear =>
    dsimp only [setLines, getLines, maxLines, outputLines, pollLines, clearLines, branch]
    (repeat' split) <;> rfl
  case dataFrame | checkpoint | cycle =>
    dsimp only [dataFrameLines, checkpointLines, cycleLines, branch]
    (repeat' split) <;> trivial
  case pollRange | discover =>
    dsimp only [pollRangeLines, discoverLines, branch]
    (repeat' split) <;> trivial
  case fsStep =>
    unfold fsStepLines
    split <;> rfl

theorem ringChange_of_exec {i : Instr} {s t : State} (hreset : i ≠ .reset)
    (hs : ∀ bytes, i = .cmdEnq bytes → EnqFits s.line s) (h : exec i s = .next t) :
    RingChange s.stream t.stream := by
  rcases hl : lines? i with _ | lines
  · rcases lines?_eq_none.1 hl with rfl | rfl | rfl
    · exact ringChange_of_exec_drainOne h
    · exact ringChange_of_exec_tick h
    · exact absurd rfl hreset
  · by_cases hi : ∃ bytes, i = .cmdEnq bytes
    · obtain ⟨bytes, rfl⟩ := hi
      exact ringChange_of_exec_cmdEnq (hs bytes rfl) h
    · obtain ⟨fuel, hp⟩ := perform_of_exec_next hl h
      exact .of_eq (perform_frame (fun _ _ => rfl) (lines_keep_stream hl (not_exists.1 hi)) hp)

theorem ringChange_of_illegalCommand {s t : State} (h : illegalCommand s = .next t) :
    RingChange s.stream t.stream := by
  obtain ⟨-, ht⟩ := inRole_eq_next.1 h
  cases ht
  exact .of_eq rfl

/-! ### One step -/

theorem ringOk_of_safe {s : State} (hs : Safe s = true) : ringOk s = true := by
  simp only [Safe, Bool.and_eq_true] at hs
  grind

/-- In a safe state an `ENQ` called last finds the ring as its line needs it. -/
theorem enqFits_of_safe {s : State} {c : Call} {later : List Call} {bytes : List Byte}
    (hs : Safe s = true) (ho : s.ops = c :: later) (hd : decode c.image = .ok (.cmdEnq bytes)) :
    EnqFits c.line s := by
  have hring := ringOk_of_safe hs
  have htop : s.top = some (.cmdEnq bytes, c.line) := by simp [State.top, Call.instr, ho, hd]
  cases he : s.ctl.enq with
  | none =>
    simp only [ringOk, he, Bool.and_eq_true] at hring
    obtain ⟨-, hroom⟩ := hring
    simpa [EnqFits, he, Room, ringFull] using fun _ => hroom
  | some call =>
    simp only [ringOk, he, htop, Option.all_some, Bool.and_eq_true] at hring
    obtain ⟨-, hline, hat⟩ := hring
    have hstep : c.line = 2 ∨ call.at_ = .e1 := by
      simp only [enqLineOk, Bool.and_eq_true, Bool.or_eq_true, decide_eq_true_eq] at hline
      exact hline.2
    have hfits : call.Fits s := by
      unfold EnqCall.Fits Room
      cases hc : call.at_ <;> simp_all [ringFull]
    simpa only [EnqFits, he] using ⟨hfits, hstep⟩

theorem mayCall_reset (s : State) (i : Instr) (k : Nat) : mayCall s i k .reset = false := by
  unfold mayCall
  split <;> simp [Instr.format]

theorem loopInstr_ne_reset (s : State) : loopInstr s ≠ .reset := by
  unfold loopInstr
  split <;> nofun

/-- `RESET` is no operation that anything calls: it comes from the boundary only (R340). -/
theorem called_ne_reset {s : State} {c : Call} {later : List Call} {i : Instr} (hs : Safe s = true)
    (ho : s.ops = c :: later) (hd : decode c.image = .ok i) : i ≠ .reset := by
  rintro rfl
  have hc := callsOk_of_safe hs
  have hi : c.instr = some .reset := by simp only [Call.instr, hd]
  rw [ho] at hc
  cases later with
  | nil => simp [callsOk, hi, (loopInstr_ne_reset s).symm] at hc
  | cons d below => simp [callsOk, hi, mayCall_reset] at hc

theorem loopInstr_ne_cmdEnq (s : State) (bytes : List Byte) : loopInstr s ≠ .cmdEnq bytes := by
  unfold loopInstr
  split <;> nofun

/-- A step runs its operation from a state that differs from `s` in the requests, the calls, the line and the
draws only, or answers an illegal command. -/
theorem ringChange_of_step {s t : State} (hs : Safe s = true) (hr : s.drawEvent.1.reset = false)
    (h : step s = .next t) : RingChange s.stream t.stream := by
  rcases fetch_cases s with ⟨hreset, -⟩ | ⟨-, ⟨i, hi, hf⟩ | ⟨-, -, hf⟩⟩
  case inl => exact absurd hreset (Bool.eq_false_iff.1 hr)
  case inr.inl =>
    rw [step_of_fetch_run hf] at h
    rcases hi with ⟨rfl, -⟩ | ⟨rfl, -⟩
    · exact (ringChange_of_exec_tick h :)
    · exact (ringChange_of_exec_drainOne h :)
  case inr.inr =>
    rcases fetchMain_cases (s.drawEvent.2.raise s.drawEvent.1) with
      ⟨-, hm⟩ | ⟨c, later, ho, ⟨i, hi, hm⟩ | ⟨-, hm⟩⟩
    · rw [step_of_fetch_run (hf.trans hm)] at h
      exact (ringChange_of_exec (loopInstr_ne_reset _)
        (fun bytes hi => absurd hi (loopInstr_ne_cmdEnq _ bytes)) h :)
    · rw [step_of_fetch_run (hf.trans hm)] at h
      refine (ringChange_of_exec (called_ne_reset hs ho hi) (fun bytes henq => ?_) h :)
      exact (enqFits_of_safe hs ho (henq ▸ hi) :)
    · rw [step, hf, hm] at h
      by_cases hcmd : c.image.fmt = .cmd
      · rw [if_pos hcmd] at h
        exact (ringChange_of_illegalCommand h :)
      · rw [if_neg hcmd] at h
        cases h

/-! ### An `ENQ` that nothing drains (R274, R275) -/

/-- A ring as full as it gets (R274): 255 bytes held. -/
theorem ringCount_eq_255_iff {head tail : Byte} : ringCount head tail = 255 ↔ head + 1 = tail := by
  unfold ringCount
  bv_omega

/-- What an `ENQ` leaves that nothing drains and that stores the first `n` of `bytes`. -/
structure StoresPrefix (n : Nat) (bytes : List Byte) (s t : State) : Prop where
  held : t.held = s.held ++ bytes.take n
  head : t.ctl.head = s.ctl.head + BitVec.ofNat 8 n
  full : t.ctl.full = decide (t.ctl.head + 1 = t.ctl.tail)
  others : ∀ k, n ≤ k → k < 256 →
    t.ringRead (s.ctl.head + BitVec.ofNat 8 k) = s.ringRead (s.ctl.head + BitVec.ofNat 8 k)
  frame : t = { s with
    ctl := { s.ctl with rb := t.ctl.rb, head := t.ctl.head, full := t.ctl.full, enq := none }
    out := { s.out with resp := s.out.resp ++ [.ok] } }

/-- The ring after E1 to E5 for one byte, with no drain between them. -/
def State.stored (s : State) (b : Byte) : State :=
  let u := s.ringWrite s.ctl.head b
  { u with ctl := { u.ctl with head := u.ctl.head + 1, full := ringFull (u.ctl.head + 1) u.ctl.tail } }

section
variable {s t : State} {bytes left rest : List Byte} {b t0 : Byte} {n : Nat}

theorem head_stored : (s.stored b).ctl.head = s.ctl.head + 1 := rfl

theorem held_stored (h : s.ctl.head + 1 ≠ s.ctl.tail) : (s.stored b).held = s.held ++ [b] := by
  have hheld := held_head_succ (s := s.ringWrite s.ctl.head b) h
  rw [held_ringWrite_head, ringWrite_ctl_head, ringRead_ringWrite, if_pos rfl] at hheld
  exact hheld

theorem ringRead_stored (i : Byte) : (s.stored b).ringRead i = if i = s.ctl.head then b else s.ringRead i :=
  ringRead_ringWrite ..

theorem storesPrefix_zero (hfull : s.ctl.full = decide (s.ctl.head + 1 = s.ctl.tail)) :
    StoresPrefix 0 bytes s ((s.setEnq none).respond .ok) where
  held := (List.append_nil _).symm
  head := (BitVec.add_zero _).symm
  full := hfull
  others _ _ _ := rfl
  frame := rfl

theorem StoresPrefix.cons (hroom : s.ctl.head + 1 ≠ s.ctl.tail) (ht : StoresPrefix n rest (s.stored b) t) :
    StoresPrefix (n + 1) (b :: rest) s t where
  held := by rw [ht.held, held_stored hroom, List.take_succ_cons, List.append_assoc, List.singleton_append]
  head := ht.head.trans (add_one_add_ofNat s.ctl.head n)
  full := ht.full
  others k hnk hk := by
    obtain ⟨j, rfl⟩ := Nat.exists_eq_add_of_le' (Nat.one_le_of_lt hnk)
    have hothers := ht.others j (Nat.le_of_succ_le_succ hnk) (Nat.lt_of_succ_lt hk)
    have hne : s.ctl.head + BitVec.ofNat 8 (j + 1) ≠ s.ctl.head := by bv_omega
    rw [head_stored, add_one_add_ofNat, ringRead_stored, if_neg hne] at hothers
    exact hothers
  frame := ht.frame

/-! The lines of `ENQ` that a byte runs, in a state whose call is written out. -/

theorem enqLines_test : enqLines bytes 1 (s.setEnq (some ⟨b :: rest, .e1, t0⟩)) =
    .goOn 2 (s.setEnq (some ⟨b :: rest, .e1, t0⟩)) := rfl

theorem enqLines_e1_of_full (hfull : s.ctl.full = true) :
    enqLines bytes 2 (s.setEnq (some ⟨b :: rest, .e1, t0⟩)) = .goOn enqDone (s.setEnq none) := if_pos hfull

theorem enqLines_e1 (hfull : s.ctl.full = false) : enqLines bytes 2 (s.setEnq (some ⟨b :: rest, .e1, t0⟩)) =
    .goOn 2 (s.setEnq (some ⟨b :: rest, .e2, t0⟩)) := if_neg (Bool.eq_false_iff.1 hfull)

theorem enqLines_e2 : enqLines bytes 2 (s.setEnq (some ⟨b :: rest, .e2, t0⟩)) =
    .goOn 2 ((s.ringWrite s.ctl.head b).setEnq (some ⟨b :: rest, .e3, t0⟩)) := rfl

theorem enqLines_e3 : enqLines bytes 2 (s.setEnq (some ⟨b :: rest, .e3, t0⟩)) =
    .goOn 2 (State.setEnq { s with ctl := { s.ctl with head := s.ctl.head + 1 } }
      (some ⟨b :: rest, .e4, t0⟩)) := rfl

theorem enqLines_e4 : enqLines bytes 2 (s.setEnq (some ⟨b :: rest, .e4, t0⟩)) =
    .goOn 2 (s.setEnq (some ⟨b :: rest, .e5, s.ctl.tail⟩)) := rfl

theorem enqLines_e5 : enqLines bytes 2 (s.setEnq (some ⟨b :: rest, .e5, t0⟩)) =
    .goOn 3 (State.setEnq { s with ctl := { s.ctl with full := ringFull s.ctl.head t0 } }
      (some ⟨b :: rest, .e1, t0⟩)) := rfl

theorem enqLines_next : enqLines bytes 3 (s.setEnq (some ⟨b :: rest, .e1, t0⟩)) =
    .goOn 1 (s.setEnq (some ⟨rest, .e1, t0⟩)) := rfl

/-- With no byte left, or when E1 finds the ring full, the call ends and nothing more is stored. -/
theorem enq_run_of_nothing (fuel : Nat) (h : s.ctl.full = true ∨ left = []) :
    runLines (.cmdEnq bytes) (enqLines bytes) (fuel + 3) none 1 (s.setEnq (some ⟨left, .e1, t0⟩)) =
      .next ((s.setEnq none).respond .ok) := by
  cases left with
  | nil =>
    have hdone : enqLines bytes 1 (s.setEnq (some ⟨[], .e1, t0⟩)) = .goOn enqDone (s.setEnq none) := rfl
    exact (runLines_goOn hdone).trans (runLines_ret rfl)
  | cons b rest =>
    have hfull : s.ctl.full = true := h.resolve_right (List.cons_ne_nil b rest)
    exact (runLines_goOn enqLines_test).trans <| (runLines_goOn (enqLines_e1_of_full hfull)).trans
      (runLines_ret rfl)

theorem enq_run_byte (fuel : Nat) (hfull : s.ctl.full = false) :
    runLines (.cmdEnq bytes) (enqLines bytes) (fuel + 7) none 1 (s.setEnq (some ⟨b :: rest, .e1, t0⟩)) =
      runLines (.cmdEnq bytes) (enqLines bytes) fuel none 1
        ((s.stored b).setEnq (some ⟨rest, .e1, s.ctl.tail⟩)) :=
  (runLines_goOn enqLines_test).trans <| (runLines_goOn (enqLines_e1 hfull)).trans <|
    (runLines_goOn enqLines_e2).trans <| (runLines_goOn enqLines_e3).trans <|
    (runLines_goOn enqLines_e4).trans <| (runLines_goOn enqLines_e5).trans (runLines_goOn enqLines_next)

end

/-- The call from its `while` test on, `full` being right: each byte is stored until the ring is full. -/
theorem enq_run (bytes left : List Byte) : ∀ {fuel : Nat} {s : State} {t0 : Byte},
    7 * left.length + 3 ≤ fuel → s.ctl.full = decide (s.ctl.head + 1 = s.ctl.tail) →
    ∃ t, runLines (.cmdEnq bytes) (enqLines bytes) fuel none 1 (s.setEnq (some ⟨left, .e1, t0⟩)) = .next t ∧
      StoresPrefix (min left.length (255 - ringCount s.ctl.head s.ctl.tail)) left s t := by
  induction left with
  | nil =>
    intro fuel s t0 hfuel hfull
    obtain ⟨fuel, rfl⟩ := Nat.exists_eq_add_of_le' hfuel
    rw [List.length_nil, Nat.zero_min]
    exact ⟨_, enq_run_of_nothing fuel (.inr rfl), storesPrefix_zero hfull⟩
  | cons b rest ih =>
    intro fuel s t0 hfuel hfull
    rw [List.length_cons] at hfuel ⊢
    by_cases hroom : s.ctl.head + 1 = s.ctl.tail
    · obtain ⟨fuel, rfl⟩ := Nat.exists_eq_add_of_le' (Nat.le_of_add_left_le hfuel)
      rw [ringCount_eq_255_iff.2 hroom, Nat.sub_self, Nat.min_zero]
      exact ⟨_, enq_run_of_nothing fuel (.inl (hfull.trans (decide_eq_true hroom))), storesPrefix_zero hfull⟩
    · obtain ⟨fuel, rfl⟩ := Nat.exists_eq_add_of_le' (show 7 ≤ fuel by omega)
      obtain ⟨t, hrun, ht⟩ := ih (fuel := fuel) (s := s.stored b) (t0 := s.ctl.tail) (by omega) rfl
      have hone : min (rest.length + 1) (255 - ringCount s.ctl.head s.ctl.tail) =
          min rest.length (255 - ringCount (s.ctl.head + 1) s.ctl.tail) + 1 := by
        have hlt := ringCount_lt (s.ctl.head + 1) s.ctl.tail
        rw [ringCount_head_succ hroom] at hlt ⊢
        omega
      exact ⟨t, (enq_run_byte fuel (hfull.trans (decide_eq_false hroom))).trans hrun, hone ▸ ht.cons hroom⟩

/-- Executed from its first line and not stopped, an `ENQ` starts its call, with more than enough lines left. -/
theorem exec_cmdEnq_of_runsFrom {s : State} (bytes : List Byte) (hr : s.par.role = .controller)
    (hk : s.runsFrom 0 = true) : ∃ fuel, 7 * bytes.length + 3 ≤ fuel ∧ exec (.cmdEnq bytes) s =
      runLines (.cmdEnq bytes) (enqLines bytes) fuel none 1 (s.started.setEnq (some ⟨bytes, .e1, 0⟩)) := by
  have hexec : exec (.cmdEnq bytes) s = _ := exec_of_inRole_perform rfl hr hk
  rw [hexec, enqFuel]
  split
  · exact ⟨_, by omega, runLines_goOn rfl⟩
  · exact ⟨_, by omega, runLines_goOn rfl⟩

/-! ### The last item of R273 (log 21) -/

/-- A controller whose ring held 254 bytes of an earlier `ENQ` when an `ENQ` of one byte began; the call stands
at E5 with the `tail` that its E4 read, and two bytes have been drained since. -/
def afterTwoDrains : State :=
  { State.reset with
    ctl := { State.reset.ctl with
      rb := (List.range 255).map fun k => (k, 0x61)
      head := 255, tail := 2, enq := some ⟨[0x61], .e5, 0⟩ }
    ops := [⟨encode (.cmdEnq [0x61]), 2⟩, ⟨encode .cycle, 1⟩]
    out := { State.reset.out with resp := [.ok], console := [0x61, 0x61] } }

theorem safe_afterTwoDrains : Safe afterTwoDrains = true := by decide +kernel

/-- E5 sets `full` from the old `tail`, and the call ends. -/
theorem step_afterTwoDrains : step afterTwoDrains = .next { afterTwoDrains with
    ctl := { afterTwoDrains.ctl with full := true, enq := none }
    ops := [⟨encode .cycle, 1⟩]
    out := { afterTwoDrains.out with resp := [.ok, .ok] } } := rfl

end Sys2Proof.Machine

namespace Sys2Proof.Proofs

open Sys2Proof.Machine

/-- Settles O32: a step stores bytes after those held, or hands the oldest of them to the console. -/
theorem bytesPassTheRingInOrder : Obligations.BytesPassTheRingInOrder := by
  intro s t hs hr hstep
  have hc : RingChange (s.out.console, s.held) (t.out.console, t.held) := ringChange_of_step hs hr hstep
  generalize t.out.console = console, t.held = held at hc ⊢
  cases hc with
  | stored bytes => exact ⟨⟨bytes, (List.append_assoc ..).symm⟩, [], (List.append_nil _).symm⟩
  | drained b rest h => exact ⟨⟨[], by simp [show s.held = b :: held from h]⟩, [b], rfl⟩

/-- Settles O29: the call by induction on the bytes left, each stored while the ring has room; with none left,
or with `full = 1`, the call ends at once. -/
theorem enqueueStoresThePrefixThatFits : Obligations.EnqueueStoresThePrefixThatFits := by
  intro s bytes hr hk
  obtain ⟨fuel, hfuel, hexec⟩ := exec_cmdEnq_of_runsFrom bytes hr hk
  rw [hexec]
  refine ⟨fun hfull hroom => ?_, fun h => ?_⟩
  · obtain ⟨t, hrun, ⟨held, head, full, others, frame⟩⟩ :=
      enq_run bytes bytes (s := s.started) (t0 := 0) hfuel (hfull.trans (decide_eq_false hroom).symm)
    rw [Nat.min_comm, ← List.take_eq_take_min] at held
    exact ⟨t, hrun, held, head, full, others, frame⟩
  · obtain ⟨fuel, rfl⟩ := Nat.exists_eq_add_of_le' (Nat.le_of_add_left_le hfuel)
    exact enq_run_of_nothing fuel h

/-- Refutes O33: two bytes drained between E4 and E5 leave `full = 1` with 253 held. -/
theorem not_fullMeansAtLeast254Held : ¬Obligations.FullMeansAtLeast254Held := by
  intro h
  have hheld : 254 ≤ ringCount 255 2 :=
    h _ _ safe_afterTwoDrains step_afterTwoDrains (fun houtside => absurd rfl (houtside _ rfl).2) nofun rfl
  exact absurd hheld (by decide)

/-- Settles O31: the two cases of the drainer's body. -/
theorem drainPopsOneByte : Obligations.DrainPopsOneByte := by
  intro s hr
  rw [exec_drainOne hr, drainBody_eq]
  exact ⟨fun he => by rw [if_pos he]; rfl, fun hne => by rw [if_neg hne]; rfl⟩

end Sys2Proof.Proofs

/-! SUPPORT. Operations stopped between two of their lines, and the tick (spec 60_exceptions.md R302, R305):
what one line leaves called, what the ticks of several counters leave, the rank that bounds the lines an
operation runs, and the obligations on them. -/

namespace Sys2Proof.Machine

/-! ### An operation stopped after one line -/

/-- `exec_of_inRole_perform` for an operation that stops after its first line. -/
theorem exec_of_inRole_perform_of_runsOnly {r : Role} {i : Instr} {lines : Nat → State → LineEnd}
    {fuel k : Nat} {s : State} (hi : exec i s = inRole r s (perform i lines fuel s)) (hr : s.par.role = r)
    (h : s.runsOnly k = true) : exec i s = runLines i lines fuel (some 0) k s.started := by
  rw [hi, inRole_of_role _ hr, perform_of_runsOnly h]

theorem enqFuel_eq_succ (bytes : List Byte) (s : State) : ∃ fuel, enqFuel bytes s = fuel + 1 := by
  unfold enqFuel
  split
  · exact ⟨_, rfl⟩
  · exact ⟨_, rfl⟩

/-- An `ENQ` that stops after its first line has at least that one to run. -/
theorem exec_cmdEnq_of_runsOnly {s : State} {k : Nat} (bytes : List Byte) (hr : s.par.role = .controller)
    (hk : s.runsOnly k = true) : ∃ fuel, exec (.cmdEnq bytes) s =
      runLines (.cmdEnq bytes) (enqLines bytes) (fuel + 1) (some 0) k s.started := by
  obtain ⟨fuel, hfuel⟩ := enqFuel_eq_succ bytes s
  exact ⟨fuel, hfuel ▸ exec_of_inRole_perform_of_runsOnly rfl hr hk⟩

/-- The lines of `ENQ` are stated of a state whose call is written out; here of one that holds the call. -/
theorem enqLines_of_enq {bytes : List Byte} {k : Nat} {s : State} {c : Option EnqCall} {e : LineEnd}
    (he : s.ctl.enq = c) (hl : enqLines bytes k (s.setEnq c) = e) : enqLines bytes k s = e := by
  subst he
  exact hl

/-! ### The tick of several counters (R302) -/

/-- One counter's tick updates the indicator at a device when its counter expires. -/
theorem actLed_tickCounter (c : CounterId) (s : State) : (tickCounter c s).dev.actLed =
    if s.par.role = .device ∧ s.counter c = 1 then ledAfter (s.par.expire c) s.dev.actLed
    else s.dev.actLed := by
  simp only [tickCounter, counter_setCounter, if_true]
  split
  case isTrue hzero => rw [if_neg (by omega)]
  case isFalse hne =>
    split
    case isTrue hone =>
      have hone : s.counter c = 1 := by omega
      rw [expire_eq, setCounter_eq]
      simp [hone]
    case isFalse hmore =>
      rw [if_neg (by omega), setCounter_eq]

/-- The counters of `cs` that a tick brings to zero. -/
def State.expiring (s : State) (cs : List CounterId) : List CounterId :=
  cs.filter fun c => decide (s.counter c = 1)

/-- What the ticks of the counters `cs`, each once, leave. -/
structure Ticked (cs : List CounterId) (s t : State) : Prop where
  counter : ∀ c, t.counter c = if c ∈ cs then s.counter c - 1 else s.counter c
  fired : t.out.fired = s.out.fired ++ s.expiring cs
  actLed : t.dev.actLed = if s.par.role = .device then
    (s.expiring cs).foldl (fun v c => ledAfter (s.par.expire c) v) s.dev.actLed else s.dev.actLed
  frame : t = { s with
    tmo := t.tmo, dev := { s.dev with actLed := t.dev.actLed }, out := { s.out with fired := t.out.fired } }

theorem Ticked.nil (s : State) : Ticked [] s s where
  counter _ := rfl
  fired := (List.append_nil _).symm
  actLed := (ite_self _).symm
  frame := rfl

/-- A counter ticked first leaves the others, and so their expiries. -/
theorem expiring_tickCounter {c : CounterId} {cs : List CounterId} (hc : c ∉ cs) (s : State) :
    (tickCounter c s).expiring cs = s.expiring cs := by
  refine List.filter_congr fun d hd => ?_
  rw [counter_tickCounter, if_neg (ne_of_mem_of_not_mem hd hc)]

theorem expiring_cons (s : State) (c : CounterId) (cs : List CounterId) :
    s.expiring (c :: cs) = (if s.counter c = 1 then [c] else []) ++ s.expiring cs := by
  by_cases hc : s.counter c = 1
  · simp [State.expiring, hc]
  · simp [State.expiring, hc]

theorem par_tickCounter (c : CounterId) (s : State) : (tickCounter c s).par = s.par := by
  rw [tickCounter_eq]

theorem Ticked.cons {c : CounterId} {cs : List CounterId} {s t : State} (hc : c ∉ cs)
    (h : Ticked cs (tickCounter c s) t) : Ticked (c :: cs) s t where
  counter d := by
    rw [h.counter, counter_tickCounter]
    grind
  fired := by
    rw [h.fired, fired_tickCounter, expiring_tickCounter hc, expiring_cons, List.append_assoc]
  actLed := by
    rw [h.actLed, actLed_tickCounter, expiring_tickCounter hc, expiring_cons, par_tickCounter]
    by_cases hr : s.par.role = .device
    · by_cases hone : s.counter c = 1
      · simp [hr, hone]
      · simp [hr, hone]
    · simp [hr]
  frame := by
    rw [h.frame, tickCounter_eq c s]

/-- The handler ticks its three counters one after another and clears the request. -/
theorem ticked_tickCounters (s : State) : Ticked [.red, .green, .noData] s
    (tickCounter .noData (tickCounter .green (tickCounter .red s))) :=
  .cons (by decide) <| .cons (by decide) <| .cons (by decide) <| .nil _

theorem exec_tick (s : State) : exec .tick s =
    .next { tickCounter .noData (tickCounter .green (tickCounter .red s)) with pendTick := false } := rfl

/-! ### A run that is stopped and goes on -/

/-- Every line that goes on lowers the rank, so no run goes on more often than the rank of its first line. -/
def Descends (lines : Nat → State → LineEnd) (rank : Nat → State → Nat) : Prop :=
  ∀ ⦃k s k' s'⦄, lines k s = .goOn k' s' → rank k' s' < rank k s

section
variable {i : Instr} {lines : Nat → State → LineEnd} {rank : Nat → State → Nat}

/-- A run with fuel enough for the rank never runs out, so its fuel does not matter. -/
theorem Descends.runLines_eq (hd : Descends lines rank) (fuel : Nat) : ∀ {fuel' k : Nat} {s : State},
    rank k s < fuel → rank k s < fuel' →
    runLines i lines fuel none k s = runLines i lines fuel' none k s := by
  induction fuel with
  | zero => exact fun h => absurd h (Nat.not_lt_zero _)
  | succ fuel ih =>
    intro fuel' k s hfuel hfuel'
    obtain ⟨fuel', rfl⟩ := Nat.exists_eq_add_one_of_ne_zero (Nat.ne_zero_of_lt hfuel')
    cases hl : lines k s with
    | goOn k' s' =>
      have hlt := hd hl
      rw [runLines_goOn hl, runLines_goOn hl]
      exact ih (by omega) (by omega)
    | hold | call | last | ret | stop => simp only [runLines, hl]

/-- The run from line `k` in `s` is stopped where line `k'` is next, in `u`: given any fuel that suffices, it
ends from there where it ends when it is not stopped. -/
structure StoppedAt (i : Instr) (lines : Nat → State → LineEnd) (rank : Nat → State → Nat)
    (fuel k : Nat) (s : State) (k' : Nat) (u : State) : Prop where
  par : u.par = s.par
  line : u.line = s.line
  goesOn : ∀ {fuel'}, rank k' u < fuel' →
    runLines i lines fuel' none k' u = runLines i lines fuel none k s

/-- Stopped after `n + 1` lines, a run has ended before, or is stopped where it can go on. -/
theorem Descends.runLines_some (hd : Descends lines rank)
    (hkeep : ∀ k s, (lines k s).Leaves fun u => u.par = s.par ∧ u.line = s.line) (fuel : Nat) :
    ∀ {n k : Nat} {s : State}, rank k s < fuel →
      runLines i lines fuel (some n) k s = runLines i lines fuel none k s ∨
      ∃ k' u, runLines i lines fuel (some n) k s = .next (u.callAt i k') ∧
        StoppedAt i lines rank fuel k s k' u := by
  induction fuel with
  | zero => exact fun h => absurd h (Nat.not_lt_zero _)
  | succ fuel ih =>
    intro n k s hfuel
    cases hl : lines k s with
    | goOn k' s' =>
      have hlt := hd hl
      obtain ⟨hpar, hline⟩ : s'.par = s.par ∧ s'.line = s.line := by
        simpa [LineEnd.Leaves, hl] using hkeep k s
      cases n with
      | zero =>
        refine .inr ⟨k', s', runLines_goOn_stop hl, hpar, hline, fun hfuel' => ?_⟩
        exact (hd.runLines_eq _ hfuel' (by omega)).trans (runLines_goOn hl).symm
      | succ n =>
        rw [runLines_goOn_cut hl, runLines_goOn hl]
        refine (ih (by omega)).imp_right ?_
        rintro ⟨k'', u, hrun, hstopped⟩
        exact ⟨k'', u, hrun, hstopped.par.trans hpar, hstopped.line.trans hline,
          fun hfuel' => (hstopped.goesOn hfuel').trans (runLines_goOn hl).symm⟩
    | hold | call | last | ret | stop => exact .inl (by simp only [runLines, hl])

end

/-! ### What no line changes -/

theorem receiveLines_keep_par_line (c : RxChar) (k : Nat) (s : State) :
    (receiveLines c k s).Leaves fun u => u.par = s.par ∧ u.line = s.line := by
  unfold receiveLines
  split
  · refine (deviceLines_frame c k s).mono ?_
    rintro _ ⟨_, _, _, _, rfl⟩
    exact ⟨rfl, rfl⟩
  · exact ⟨rfl, rfl⟩

theorem par_line_setDe (s : State) (v : Bool) : (s.setDe v).par = s.par ∧ (s.setDe v).line = s.line := by
  rw [setDe_eq]
  exact ⟨rfl, rfl⟩

theorem lines_keep_par_line {i : Instr} {lines : Nat → State → LineEnd} (hl : lines? i = some lines)
    (k : Nat) (s : State) : (lines k s).Leaves fun u => u.par = s.par ∧ u.line = s.line := by
  cases i <;> cases hl
  case cmdEnq bytes =>
    refine (enqLines_frame bytes k s).mono ?_
    rintro _ ⟨_, _, _, _, _, rfl⟩
    exact ⟨rfl, rfl⟩
  case rxBreak | rxStrayFe | rxData => exact receiveLines_keep_par_line _ k s
  case sendBreak | putSlot | releaseDe | bareBreak =>
    dsimp only [sendBreakLines, putSlotLines, releaseDeLines, bareBreakLines, branch, holdUntil, uartPutLine]
    (repeat' split) <;> simp only [LineEnd.Leaves, par_line_setDe] <;> trivial
  case scData | scPoll | scOther =>
    dsimp only [scDataLines, scPollLines, scOtherLines]
    (repeat' split) <;> exact ⟨rfl, rfl⟩
  case cmdSet | cmdGet | cmdMax | cmdOn | cmdOff | cmdPoll | cmdClear =>
    dsimp only [setLines, getLines, maxLines, outputLines, pollLines, clearLines, branch]
    (repeat' split) <;> exact ⟨rfl, rfl⟩
  case dataFrame | checkpoint | cycle =>
    dsimp only [dataFrameLines, checkpointLines, cycleLines, branch]
    (repeat' split) <;> trivial
  case pollRange | discover =>
    dsimp only [pollRangeLines, discoverLines, branch]
    (repeat' split) <;> trivial
  case fsStep =>
    unfold fsStepLines
    split <;> exact ⟨rfl, rfl⟩

/-! ### The rank of a line -/

/-- How many numbered steps are left (R270). -/
def EnqAt.stepsLeft : EnqAt → Nat
  | .e1 => 5
  | .e2 => 4
  | .e3 => 3
  | .e4 => 2
  | .e5 => 1

/-- The rank of a line of `ENQ`: seven lines for each byte left, fewer where its numbered steps have begun. -/
def enqRank (bytes : List Byte) (k : Nat) (s : State) : Nat :=
  match k, s.ctl.enq with
  | 0, _ => 7 * bytes.length + 2
  | 1, some c => 7 * c.left.length + 1
  | 2, some c => 7 * (c.left.length - 1) + 2 + c.at_.stepsLeft
  | 3, some c => 7 * (c.left.length - 1) + 2
  | _, _ => 0

/-- The rank of a poll: three lines for each sample left, from the line that opens the window on. -/
def pollRangeRank (k : Nat) (s : State) : Nat :=
  match k with
  | 1 | 3 => 1
  | 5 => 3 * Config.pollSamples + 1
  | 6 | 7 => 3 * (Config.pollSamples - s.ctl.seq.sample) + 3
  | 8 => 3 * (Config.pollSamples - s.ctl.seq.sample) + 2
  | 9 => 3 * (Config.pollSamples - s.ctl.seq.sample) + 1
  | _ => 0

/-- The rank of a line of `DISCOVER`: at most so many lines go on from there before a call or the return. -/
def discoverRank : Nat → Nat
  | 2 | 6 | 11 => 0
  | 1 | 5 | 13 => 1
  | 3 | 9 | 10 => 3
  | 8 => 4
  | 7 => 5
  | _ => 2

/-- The rank of a line of `DATA_FRAME`. -/
def dataFrameRank : Nat → Nat
  | 0 | 3 | 4 => 0
  | 2 => 1
  | _ => 2

/-- The rank of a line of `CYCLE`. -/
def cycleRank : Nat → Nat
  | 0 => 0
  | k => 8 - k

/-- The rank of each line of an operation. The operations not named here only go forward. -/
def lineRank (i : Instr) (k : Nat) (s : State) : Nat :=
  match i with
  | .cmdClear => Config.nSlot - k
  | .cmdEnq bytes => enqRank bytes k s
  | .dataFrame => dataFrameRank k
  | .cycle => cycleRank k
  | .pollRange _ _ => pollRangeRank k s
  | .discover => discoverRank k
  | _ => 20 - k

/-- If the line goes on, then to a later one, none past line 20. -/
def LineEnd.Forward (k : Nat) : LineEnd → Prop
  | .goOn k' _ => k < k' ∧ k' ≤ 20
  | _ => True

theorem receiveLines_forward (c : RxChar) (k : Nat) (s : State) : (receiveLines c k s).Forward k := by
  dsimp only [receiveLines, deviceLines, deviceCase, sampleLines, branch]
  (repeat' split) <;> simp [LineEnd.Forward]

theorem EnqAt.stepsLeft_le (a : EnqAt) : a.stepsLeft ≤ 5 := by
  cases a <;> decide

/-- A numbered step leads to the next one, past the last to line 3, or, dropping the rest, to the response. -/
theorem enqRank_enqStep (bytes : List Byte) {c : EnqCall} {s u : State} {k : Nat}
    (hl : enqStep c s = .goOn k u) : enqRank bytes k u < 7 * (c.left.length - 1) + 2 + c.at_.stepsLeft := by
  obtain ⟨left, at_, t⟩ := c
  cases left with
  | nil =>
    cases at_ <;> cases hl <;> simp [enqRank, enqDone]
  | cons b rest =>
    cases at_ with
    | e1 =>
      simp only [enqStep] at hl
      split at hl <;> cases hl
      all_goals simp [enqRank, enqDone, EnqAt.stepsLeft]
    | e2 | e3 | e4 | e5 =>
      cases hl
      simp [enqRank, EnqAt.stepsLeft]

theorem descends_enq (bytes : List Byte) : Descends (enqLines bytes) (enqRank bytes) := by
  intro k s k' s' hl
  unfold enqLines at hl
  split at hl
  next =>
    cases hl
    simp [enqRank]
  next c he =>
    split at hl <;> cases hl
    · simp [enqRank, enqDone, he]
    · have hstep := c.at_.stepsLeft_le
      have hleft : 0 < c.left.length := List.length_pos_of_ne_nil ‹_›
      simp only [enqRank, he]
      omega
  next c he =>
    simpa [enqRank, he] using enqRank_enqStep bytes hl
  next c he =>
    cases hl
    simp [enqRank, he]
  next => cases hl

@[simp] theorem sample_window (mn mx k : Nat) : (SeqPos.poll mn mx (.window k)).sample = k := rfl

/-- Case `h_10` is line 9, the only one that can lead back: to the next sample. -/
theorem descends_pollRange (mn mx : Nat) : Descends (pollRangeLines mn mx) pollRangeRank := by
  intro k s k' s' hl
  dsimp only [pollRangeLines] at hl
  split at hl
  case h_10 =>
    split at hl <;> cases hl
    case isTrue hmore =>
      simp only [pollRangeRank, goto_ctl_seq, sample_window]
      omega
    case isFalse => simp [pollRangeRank]
  all_goals (repeat' split at hl) <;> cases hl
  all_goals simp [pollRangeRank, State.drawRx, Config.pollSamples]

theorem descends_dataFrame : Descends dataFrameLines fun k _ => dataFrameRank k := by
  intro k s k' s' hl
  dsimp only [dataFrameLines] at hl
  split at hl
  all_goals (repeat' split at hl) <;> cases hl
  all_goals simp_all [dataFrameRank]

theorem descends_cycle : Descends cycleLines fun k _ => cycleRank k := by
  intro k s k' s' hl
  dsimp only [cycleLines, branch] at hl
  split at hl
  all_goals (repeat' split at hl) <;> cases hl
  all_goals simp [cycleRank]

theorem descends_discover : Descends discoverLines fun k _ => discoverRank k := by
  intro k s k' s' hl
  dsimp only [discoverLines, branch] at hl
  split at hl
  all_goals (repeat' split at hl) <;> cases hl
  all_goals simp_all [discoverRank]

theorem descends_clear : Descends clearLines fun k _ => Config.nSlot - k := by
  intro k s k' s' hl
  unfold clearLines at hl
  split at hl <;> cases hl
  exact Nat.sub_lt_sub_left (by assumption) (Nat.lt_succ_self k)

theorem Descends.of_forward {lines : Nat → State → LineEnd} (h : ∀ k s, (lines k s).Forward k) :
    Descends lines fun k _ => 20 - k := by
  intro k s k' s' hl
  obtain ⟨hlt, hle⟩ : k < k' ∧ k' ≤ 20 := by simpa [LineEnd.Forward, hl] using h k s
  dsimp only
  omega

/-- Every line that goes on lowers its operation's rank. -/
theorem descends_of_lines {i : Instr} {lines : Nat → State → LineEnd} (hl : lines? i = some lines) :
    Descends lines (lineRank i) := by
  cases i <;> cases hl
  case cmdClear => exact descends_clear
  case cmdEnq bytes => exact descends_enq bytes
  case dataFrame => exact descends_dataFrame
  case cycle => exact descends_cycle
  case pollRange mn mx => exact descends_pollRange mn mx
  case discover => exact descends_discover
  all_goals refine Descends.of_forward fun k s => ?_
  case rxBreak | rxStrayFe | rxData => exact receiveLines_forward _ k s
  case sendBreak | putSlot | releaseDe | bareBreak =>
    dsimp only [sendBreakLines, putSlotLines, releaseDeLines, bareBreakLines, branch, holdUntil, uartPutLine]
    (repeat' split) <;> simp [LineEnd.Forward]
  case scData | scPoll | scOther =>
    dsimp only [scDataLines, scPollLines, scOtherLines]
    (repeat' split) <;> simp [LineEnd.Forward]
  case cmdSet | cmdGet | cmdMax | cmdOn | cmdOff | cmdPoll =>
    dsimp only [setLines, getLines, maxLines, outputLines, pollLines, branch]
    (repeat' split) <;> simp [LineEnd.Forward]
  case checkpoint | fsStep =>
    dsimp only [checkpointLines, fsStepLines]
    split <;> trivial

/-! ### Enough fuel for the rank -/

/-- How many lines an operation may run. -/
def lineFuel (i : Instr) (s : State) : Nat :=
  match i with
  | .cmdClear => Config.nSlot + 1
  | .cmdEnq bytes => enqFuel bytes s
  | _ => shortRun

/-- An operation with lines performs them in a role that has it. -/
theorem exec_of_lines {i : Instr} {lines : Nat → State → LineEnd} (hl : lines? i = some lines)
    (s : State) : exec i s =
      if i.existsIn s.par.role then perform i lines (lineFuel i s) s else .refused .absentInRole := by
  cases i <;> cases hl
  case rxBreak | rxStrayFe | rxData => rfl
  all_goals simp only [Instr.existsIn, decide_eq_true_eq]; rfl

theorem enqRank_lt_enqFuel (bytes : List Byte) (k : Nat) (s : State) :
    enqRank bytes k s < enqFuel bytes s := by
  unfold enqRank
  split
  case h_1 | h_5 =>
    unfold enqFuel
    split <;> omega
  all_goals
    rename_i c he
    have hstep := c.at_.stepsLeft_le
    simp only [enqFuel, he]
    omega

theorem pollRangeRank_lt (k : Nat) (s : State) : pollRangeRank k s < shortRun := by
  unfold pollRangeRank shortRun Config.pollSamples
  split <;> omega

theorem lineRank_lt_lineFuel (i : Instr) (k : Nat) (s : State) : lineRank i k s < lineFuel i s := by
  cases i
  case cmdClear => exact Nat.lt_succ_of_le (Nat.sub_le _ _)
  case cmdEnq bytes => exact enqRank_lt_enqFuel bytes k s
  case pollRange => exact pollRangeRank_lt k s
  case dataFrame | cycle | discover =>
    dsimp only [lineRank, lineFuel, dataFrameRank, cycleRank, discoverRank, shortRun]
    split <;> omega
  all_goals
    dsimp only [lineRank, lineFuel, shortRun]
    omega

theorem lineFuel_congr (i : Instr) {s t : State} (h : s.ctl.enq = t.ctl.enq) :
    lineFuel i s = lineFuel i t := by
  cases i
  case cmdEnq bytes => simp only [lineFuel, enqFuel, h]
  all_goals rfl

/-! ### Executed with the draw that stops it -/

/-- With `c` as the draw of where it stops, the lines run from `s` itself, its line being taken. -/
theorem exec_withCut {i : Instr} {lines : Nat → State → LineEnd} (hl : lines? i = some lines) {s : State}
    (hr : i.existsIn s.par.role = true) (c : Option Nat) : exec i (s.withCut c) =
      runLines i lines (lineFuel i { s with line := 0 }) c s.line { s with line := 0 } := by
  have hfuel : lineFuel i (s.withCut c) = lineFuel i { s with line := 0 } := lineFuel_congr i rfl
  exact (exec_of_lines hl _).trans ((if_pos hr).trans (hfuel ▸ rfl))

end Sys2Proof.Machine

namespace Sys2Proof.Proofs

open Sys2Proof.Machine

/-- Settles O20: a stopped operation goes on with the fuel of a new execution, and as no execution uses up its
fuel, it ends where the one that is not stopped does. -/
theorem stoppedOperationsGoOn : Obligations.StoppedOperationsGoOn := by
  intro i s n htick hdrain hreset
  obtain ⟨lines, hl⟩ : ∃ lines, lines? i = some lines := by
    refine Option.ne_none_iff_exists'.1 fun hnone => ?_
    obtain h | h | h := lines?_eq_none.1 hnone
    exacts [hdrain h, htick h, hreset h]
  by_cases hr : i.existsIn s.par.role = true
  case neg =>
    have habsent (c : Option Nat) : exec i (s.withCut c) = .refused .absentInRole :=
      (exec_of_lines hl _).trans (if_neg hr)
    exact .inl ((habsent _).trans (habsent _).symm)
  case pos =>
    rw [exec_withCut hl hr, exec_withCut hl hr]
    obtain hsame | ⟨k, u, hrun, hpar, hline, hgoesOn⟩ := (descends_of_lines hl).runLines_some
      (i := i) (n := n) (lines_keep_par_line hl) _ (lineRank_lt_lineFuel i s.line { s with line := 0 })
    case inl => exact .inl hsame
    case inr =>
      have hu : ({ u with line := 0 } : State) = u := by rw [← show u.line = 0 from hline]
      have hgo := exec_withCut hl (s := { u with line := k }) (by rw [hpar]; exact hr) none
      rw [hu] at hgo
      exact .inr ⟨u, k, hrun, hgo.trans (hgoesOn (lineRank_lt_lineFuel i k u))⟩

/-- Settles O21: the three counters are ticked one after another, and no tick touches another counter. -/
theorem tickCountsDownAndExpires : Obligations.TickCountsDownAndExpires := by
  intro s
  obtain ⟨hcounter, hfired, hled, hframe⟩ := ticked_tickCounters s
  rw [exec_tick]
  generalize tickCounter .noData (tickCounter .green (tickCounter .red s)) = t at *
  refine ⟨_, rfl, ?tmo, hfired, fun hr => ?controller, fun hr => hled.trans (if_pos hr), ?frame⟩
  case tmo =>
    obtain ⟨red, green, noData⟩ : t.tmo.red = s.tmo.red - 1 ∧ t.tmo.green = s.tmo.green - 1 ∧
      t.tmo.noData = s.tmo.noData - 1 := ⟨hcounter .red, hcounter .green, hcounter .noData⟩
    rw [← red, ← green, ← noData]
  case controller =>
    have hdev : t.dev = { s.dev with actLed := t.dev.actLed } := by rw [hframe]
    rw [hdev, hled, if_neg (by simp [hr])]
  case frame => rw [hframe]

/-- Settles O57: one line of each run, and the last one from where it is called. -/
theorem dataStartCodeStopsBetweenItsLines : Obligations.DataStartCodeStopsBetweenItsLines := by
  intro s hr
  have hexec {k : Nat} (hk : s.runsOnly k = true) :=
    exec_of_inRole_perform_of_runsOnly (i := .scData) rfl hr hk
  have hctr : s.started.changeCounter = s.counter s.par.changeCtr.id := changeCounter_eq s.started
  refine ⟨fun hk => (hexec hk).trans ?synced, fun hk => (hexec hk).trans ?slot,
    fun hk => (hexec hk).trans ?armed, fun hk hzero => (hexec hk).trans ?testZero,
    fun hk hne => (hexec hk).trans ?testNonzero,
    fun hk => (exec_of_inRole_perform (i := .scData) rfl hr hk).trans ?led⟩
  case synced | slot | armed => exact runLines_goOn_stop_eq rfl
  case testZero => exact runLines_goOn_stop_eq (if_pos (hctr.trans hzero))
  case testNonzero => exact runLines_ret (if_neg (hctr ▸ hne))
  case led => exact runLines_ret rfl

/-- Settles O30: each line is one line of the run, in a state that holds the call as the clause says. -/
theorem enqueueRunsItsNumberedSteps : Obligations.EnqueueRunsItsNumberedSteps := by
  intro s bytes rest b t0 hr
  have hexec {k : Nat} (hk : s.runsOnly k = true) := exec_cmdEnq_of_runsOnly bytes hr hk
  refine ⟨fun hk => ?start, fun hk he => ?test, fun hk he => ?testDone, fun hk hfull he => ?e1Full,
    fun hk hfull he => ?e1, fun hk he => ?e2, fun hk he => ?e3, fun hk he => ?e4, fun hk he => ?e5,
    fun hk he => ?advance, fun hk => ?respond⟩
  all_goals
    obtain ⟨fuel, hrun⟩ := hexec hk
    rw [hrun]
  case start => exact ⟨0, runLines_goOn_stop_eq rfl⟩
  case test => exact runLines_goOn_stop_eq (enqLines_of_enq he enqLines_test) (by rw [← he]; rfl)
  case testDone => exact runLines_goOn_stop_eq (enqLines_of_enq he rfl)
  case e1Full => exact runLines_goOn_stop_eq (enqLines_of_enq he (enqLines_e1_of_full hfull))
  case e1 => exact runLines_goOn_stop_eq (enqLines_of_enq he (enqLines_e1 hfull))
  case e2 =>
    exact ⟨_, runLines_goOn_stop (enqLines_of_enq he enqLines_e2),
      fun i => ringRead_ringWrite s.started s.ctl.head i b, rfl⟩
  case e3 => exact runLines_goOn_stop_eq (enqLines_of_enq he enqLines_e3)
  case e4 => exact runLines_goOn_stop_eq (enqLines_of_enq he enqLines_e4)
  case e5 => exact runLines_goOn_stop_eq (enqLines_of_enq he enqLines_e5)
  case advance => exact runLines_goOn_stop_eq (enqLines_of_enq he enqLines_next)
  case respond => exact runLines_ret rfl

end Sys2Proof.Proofs

/-! SUPPORT. The decoder and the encoder (spec 30_encoding.md): the fields of a command word, the payload of an
`ENQ`, and that each of the two undoes the other, with the obligations on them. -/

namespace Sys2Proof

/-! ### Words and their fields -/

theorem toNat_extractLsb' {w : Nat} (x : BitVec w) (start len : Nat) :
    (x.extractLsb' start len).toNat = x.toNat / 2 ^ start % 2 ^ len := by
  rw [BitVec.extractLsb'_toNat, Nat.shiftRight_eq_div_pow]

theorem toNat_append_eq_add {m n : Nat} (x : BitVec m) (y : BitVec n) :
    (x ++ y).toNat = x.toNat * 2 ^ n + y.toNat := by
  rw [BitVec.toNat_append, ← Nat.shiftLeft_add_eq_or_of_lt y.isLt, Nat.shiftLeft_eq]

section
variable (op : BitVec 4) (a : Addr) (d : Byte)

theorem toNat_cmdWord : (cmdWord op a d).toNat = op.toNat * 2 ^ 28 + a.toNat * 2 ^ 16 + d.toNat := by
  simp only [cmdWord, toNat_append_eq_add, BitVec.ofNat_eq_ofNat, BitVec.toNat_ofNat]
  omega

/-- A command word holds what it was made of, in the fields of R98, and zero in its reserved bits. -/
@[simp] theorem fields_cmdWord : cmdOp (cmdWord op a d) = op ∧ cmdReservedHigh (cmdWord op a d) = 0 ∧
    cmdA (cmdWord op a d) = a ∧ cmdReservedLow (cmdWord op a d) = 0 ∧ cmdD (cmdWord op a d) = d := by
  simp only [← BitVec.toNat_inj, cmdOp, cmdReservedHigh, cmdA, cmdReservedLow, cmdD, toNat_extractLsb',
    toNat_cmdWord, BitVec.ofNat_eq_ofNat, BitVec.toNat_ofNat]
  omega

end

/-- A command word with its reserved bits zero is made of its fields. -/
theorem cmdWord_of_fields {h : Word} (hhigh : cmdReservedHigh h = 0) (hlow : cmdReservedLow h = 0) :
    cmdWord (cmdOp h) (cmdA h) (cmdD h) = h := by
  simp only [← BitVec.toNat_inj, cmdOp, cmdReservedHigh, cmdA, cmdReservedLow, cmdD, toNat_extractLsb',
    toNat_cmdWord, BitVec.ofNat_eq_ofNat, BitVec.toNat_ofNat] at hhigh hlow ⊢
  omega

@[simp] theorem wordBytes_packWord (b0 b1 b2 b3 : Byte) :
    wordBytes (packWord b0 b1 b2 b3) = [b0, b1, b2, b3] := by
  simp only [wordBytes, packWord, List.cons.injEq, ← BitVec.toNat_inj, toNat_extractLsb',
    toNat_append_eq_add, and_true]
  omega

/-! ### The payload of an `ENQ` (R99) -/

theorem length_packPayload (bytes : List Byte) : (packPayload bytes).length = payloadWords bytes.length := by
  induction bytes using packPayload.induct with
  | case1 => rfl
  | case2 | case3 | case4 => simp [packPayload, payloadWords]
  | case5 b0 b1 b2 b3 rest ih =>
    simp only [packPayload, List.length_cons, ih, payloadWords]
    omega

theorem payloadBytes_packPayload (bytes : List Byte) :
    payloadBytes bytes.length (packPayload bytes) = bytes := by
  induction bytes using packPayload.induct with
  | case1 => rfl
  | case2 | case3 | case4 => simp [packPayload, payloadBytes]
  | case5 b0 b1 b2 b3 rest ih => simpa [packPayload, payloadBytes] using ih

theorem length_flatMap_wordBytes (ws : List Word) : (ws.flatMap wordBytes).length = 4 * ws.length := by
  induction ws with
  | nil => rfl
  | cons w ws ih =>
    rw [List.flatMap_cons, List.length_append, ih, List.length_cons, Nat.mul_succ, Nat.add_comm]
    rfl

/-- Byte `k` of a payload: four bytes to a word. -/
theorem getElem?_flatMap_wordBytes (ws : List Word) : ∀ k : Nat,
    (ws.flatMap wordBytes)[k]? = (ws[k / 4]?).map fun w => w.extractLsb' (8 * (k % 4)) 8 := by
  induction ws with
  | nil => intro k; rfl
  | cons w ws ih =>
    intro k
    match k with
    | 0 | 1 | 2 | 3 => rfl
    | k + 4 =>
      have hdiv : (k + 4) / 4 = k / 4 + 1 := Nat.add_div_right k (by decide)
      rw [hdiv, Nat.add_mod_right]
      exact ih k

/-! ### Start codes (R94) -/

section
open Machine (startCode)

theorem encode_startCode (b : Byte) : encode (startCode b) = ⟨.sc, [b.setWidth 32], []⟩ := by
  unfold startCode
  split
  · subst b; rfl
  · split
    · subst b; rfl
    · rfl

theorem decodeStartCode_setWidth (b : Byte) : decodeStartCode (b.setWidth 32) = .ok (startCode b) := by
  have hwidth : ¬256 ≤ (b.setWidth 32 : Word).toNat := by
    rw [BitVec.toNat_setWidth_of_le (by decide)]
    exact Nat.not_le.2 b.isLt
  have hbyte : (b.setWidth 32 : Word).extractLsb' 0 8 = b := by
    rw [← BitVec.setWidth_eq_extractLsb' (by decide), BitVec.setWidth_setWidth_of_le _ (by decide),
      BitVec.setWidth_eq]
  simp only [decodeStartCode, if_neg hwidth, hbyte, startCode]
  split
  · rfl
  · split <;> rfl

theorem decode_encode_startCode (b : Byte) : decode (encode (startCode b)) = .ok (startCode b) := by
  rw [encode_startCode]
  exact decodeStartCode_setWidth b

end

/-! ### Words within their width -/

theorem setWidth_lowByte {w : Word} (hw : w.toNat < 256) : (w.extractLsb' 0 8).setWidth 32 = w := by
  apply BitVec.eq_of_toNat_eq
  rw [BitVec.toNat_setWidth_of_le (by decide), toNat_extractLsb']
  omega

theorem rxWord_of_fields {w : Word} (hw : w.toNat < 512) : rxWord (w.extractLsb' 0 8) (w.getLsbD 8) = w := by
  apply BitVec.eq_of_toNat_eq
  rw [rxWord, BitVec.toNat_setWidth_of_le (by decide), toNat_append_eq_add, toNat_extractLsb',
    BitVec.toNat_ofBool, BitVec.getLsbD, Nat.toNat_testBit]
  omega

/-! ### Encode after decode -/

theorem fmt_encode (i : Instr) : (encode i).fmt = i.format := by
  cases i <;> rfl

theorem encode_of_decodeRxChar {w : Word} {i : Instr} (h : decodeRxChar w = .ok i) :
    encode i = ⟨.rxchar, [w], []⟩ := by
  by_cases hw : 512 ≤ w.toNat
  · rw [decodeRxChar, if_pos hw] at h
    cases h
  · have himage : encode (Machine.RxChar.instr ⟨w.extractLsb' 0 8, w.getLsbD 8⟩) = ⟨.rxchar, [w], []⟩ := by
      rw [Machine.encode_rx, rxWord_of_fields (Nat.not_le.1 hw)]
    have hdec := Machine.decode_encode_rx ⟨w.extractLsb' 0 8, w.getLsbD 8⟩
    rw [himage] at hdec
    have hi := h.symm.trans hdec
    cases hi
    exact himage

theorem encode_of_decodeStartCode {w : Word} {i : Instr} (h : decodeStartCode w = .ok i) :
    encode i = ⟨.sc, [w], []⟩ := by
  by_cases hw : 256 ≤ w.toNat
  · rw [decodeStartCode, if_pos hw] at h
    cases h
  · have hword := setWidth_lowByte (Nat.not_le.1 hw)
    rw [← hword, decodeStartCode_setWidth] at h
    cases h
    rw [encode_startCode, hword]

theorem bareCommand_eq_ok {payload : List Word} {i j : Instr} :
    bareCommand payload i = .ok j ↔ payload = [] ∧ i = j := by
  unfold bareCommand
  split <;> simp_all

/-- An image whose header has these fields is the command word made of them. -/
theorem cmdImage_of_fields {h : Word} {op : BitVec 4} {a : Addr} {d : Byte} {payload : List Word}
    (hhigh : cmdReservedHigh h = 0) (hlow : cmdReservedLow h = 0) (hop : (cmdOp h).toNat = op.toNat)
    (ha : cmdA h = a) (hd : cmdD h = d) :
    (⟨.cmd, cmdWord op a d :: payload, []⟩ : Image) = ⟨.cmd, h :: payload, []⟩ := by
  rw [← BitVec.eq_of_toNat_eq hop, ← ha, ← hd, cmdWord_of_fields hhigh hlow]

theorem encode_of_decodeCommand {h : Word} {payload : List Word} {i : Instr}
    (hd : decodeCommand h payload = .ok i) :
    (∃ bytes, i = .cmdEnq bytes) ∨ encode i = ⟨.cmd, h :: payload, []⟩ := by
  unfold decodeCommand at hd
  split at hd
  case isTrue => cases hd
  case isFalse hreserved =>
    obtain ⟨hhigh, hlow⟩ : cmdReservedHigh h = 0 ∧ cmdReservedLow h = 0 := by simpa using hreserved
    split at hd
    case h_1 hop =>
      obtain ⟨rfl, rfl⟩ := bareCommand_eq_ok.1 hd
      exact .inr (cmdImage_of_fields hhigh hlow hop rfl rfl)
    case h_2 hop | h_3 hop =>
      split at hd
      · cases hd
      · next hD =>
        obtain ⟨rfl, rfl⟩ := bareCommand_eq_ok.1 hd
        exact .inr (cmdImage_of_fields hhigh hlow hop rfl (not_not.1 hD))
    case h_4 hop | h_5 hop | h_6 hop | h_7 hop =>
      split at hd
      · cases hd
      · next hDA =>
        obtain ⟨hD, hA⟩ := not_or.1 hDA
        obtain ⟨rfl, rfl⟩ := bareCommand_eq_ok.1 hd
        exact .inr (cmdImage_of_fields hhigh hlow hop (not_not.1 hA) (not_not.1 hD))
    case h_8 =>
      split at hd
      · cases hd
      · split at hd
        · cases hd
        · cases hd
          exact .inl ⟨_, rfl⟩
    case h_9 => cases hd

theorem bareStep_eq_ok {operands : List Nat} {i j : Instr} :
    bareStep operands i = .ok j ↔ operands = [] ∧ i = j := by
  unfold bareStep
  split <;> simp_all

theorem byteStep_eq_ok {operands : List Nat} {f : Byte → Instr} {i : Instr} :
    byteStep operands f = .ok i ↔ ∃ b : Byte, operands = [b.toNat] ∧ f b = i := by
  constructor
  · intro h
    unfold byteStep at h
    split at h
    · next n =>
      split at h
      · cases h
      · cases h
        refine ⟨_, ?_, rfl⟩
        rw [BitVec.toNat_ofNat, Nat.mod_eq_of_lt (by omega)]
    · cases h
  · rintro ⟨b, rfl, rfl⟩
    exact Machine.byteStep_toNat b f

theorem stepImage_of_code {code : Word} {n : Byte} (hcode : code.toNat = n.toNat) (operands : List Nat) :
    stepImage n operands = ⟨.seq, [code], operands⟩ := by
  have hword : n.setWidth 32 = code := by
    apply BitVec.eq_of_toNat_eq
    rw [BitVec.toNat_setWidth_of_le (by decide), hcode]
  rw [stepImage, hword]

theorem encode_of_decodeStep {code : Word} {operands : List Nat} {i : Instr}
    (hd : decodeStep code operands = .ok i) : encode i = ⟨.seq, [code], operands⟩ := by
  unfold decodeStep at hd
  split at hd
  case h_1 hcode | h_2 hcode =>
    obtain ⟨b, rfl, rfl⟩ := byteStep_eq_ok.1 hd
    exact stepImage_of_code hcode _
  case h_8 hcode =>
    split at hd <;> cases hd
    exact stepImage_of_code hcode _
  case h_14 =>
    split at hd <;> cases hd
  all_goals
    rename_i hcode
    obtain ⟨rfl, rfl⟩ := bareStep_eq_ok.1 hd
    exact stepImage_of_code hcode _

theorem bareStep_ne_unassigned {operands : List Nat} {i : Instr} :
    bareStep operands i ≠ .error .unassignedCode := by
  unfold bareStep
  split <;> simp

theorem byteStep_ne_unassigned {operands : List Nat} {f : Byte → Instr} :
    byteStep operands f ≠ .error .unassignedCode := by
  unfold byteStep
  (repeat' split) <;> simp

/-- The unassigned codes of R102; a wider word is no step code at all. -/
theorem decodeStep_eq_unassigned {code : Word} {operands : List Nat} :
    decodeStep code operands = .error .unassignedCode ↔
      code.toNat = 0 ∨ 14 ≤ code.toNat ∧ code.toNat < 256 := by
  unfold decodeStep
  split
  case h_1 hcode | h_2 hcode => simp [hcode, byteStep_ne_unassigned]
  case h_8 hcode => (repeat' split) <;> simp [hcode]
  case h_14 =>
    split <;> grind
  all_goals
    rename_i hcode
    simp [hcode, bareStep_ne_unassigned]

/-- The encoder is the decoder's inverse on the images that decode, the unused bytes of an `ENQ` apart. -/
theorem encode_of_decode {im : Image} {i : Instr} (hd : decode im = .ok i) :
    (im.fmt = .cmd ∧ ∃ bytes, i = .cmdEnq bytes) ∨ encode i = im := by
  obtain ⟨fmt, words, operands⟩ := im
  unfold decode at hd
  split at hd
  case h_1 => cases hd
  case h_2 w rest hwords =>
    cases hwords
    cases fmt <;> dsimp only at hd <;> split at hd
    case rxchar.isTrue h =>
      obtain ⟨rfl, rfl⟩ := h
      exact .inr (encode_of_decodeRxChar hd)
    case sc.isTrue h =>
      obtain ⟨rfl, rfl⟩ := h
      exact .inr (encode_of_decodeStartCode hd)
    case cmd.isTrue h =>
      subst h
      exact (encode_of_decodeCommand hd).imp_left fun h => ⟨rfl, h⟩
    case seq.isTrue h =>
      subst h
      exact .inr (encode_of_decodeStep hd)
    all_goals cases hd

theorem format_of_decode {im : Image} {i : Instr} (hd : decode im = .ok i) : i.format = im.fmt := by
  rcases encode_of_decode hd with ⟨hfmt, bytes, rfl⟩ | rfl
  · exact hfmt.symm
  · exact (fmt_encode i).symm

/-! ### Decode after encode -/

theorem decode_encode {i : Instr} (hi : WellFormed i = true) : decode (encode i) = .ok i := by
  cases i with
  | rxBreak => exact Machine.decode_encode_rx ⟨0, true⟩
  | rxStrayFe b =>
    have hb : b ≠ 0 := of_decide_eq_true hi
    have hd := Machine.decode_encode_rx ⟨b, true⟩
    rwa [Machine.instr_of_stray hb] at hd
  | rxData b =>
    have hd := Machine.decode_encode_rx ⟨b, false⟩
    rwa [Machine.instr_of_data] at hd
  | scOther b =>
    have hb : Machine.startCode b = .scOther b := by
      simp only [WellFormed, Bool.and_eq_true, decide_eq_true_eq] at hi
      rw [Machine.startCode, if_neg hi.1, if_neg hi.2]
    exact hb ▸ decode_encode_startCode b
  | cmdEnq bytes =>
    have hlen : bytes.length ≤ 1023 := of_decide_eq_true hi
    have hmod : (BitVec.ofNat 10 bytes.length).toNat = bytes.length := Nat.mod_eq_of_lt (by omega)
    simp [encode, decode, decodeCommand, hmod, length_packPayload, payloadBytes_packPayload]
  | sendBreak sc => exact Machine.byteStep_toNat sc .sendBreak
  | putSlot b => exact Machine.byteStep_toNat b .putSlot
  | cmdSet | cmdGet | cmdMax | cmdOn | cmdOff | cmdPoll | cmdClear =>
    simp [encode, decode, decodeCommand, bareCommand]
  | _ => rfl

/-! ### What an `ENQ` decodes from -/

theorem decodeCommand_eq_cmdEnq {h : Word} {payload : List Word} {bytes : List Byte}
    (hd : decodeCommand h payload = .ok (.cmdEnq bytes)) :
    payload.length = payloadWords (cmdA h).toNat ∧ bytes = payloadBytes (cmdA h).toNat payload := by
  unfold decodeCommand at hd
  split at hd
  · cases hd
  · split at hd
    case h_8 =>
      split at hd
      · cases hd
      · split at hd
        · cases hd
        · next hlen =>
          cases hd
          exact ⟨not_not.1 hlen, rfl⟩
    case h_9 => cases hd
    case h_1 => simp [bareCommand_eq_ok] at hd
    all_goals
      split at hd
      · cases hd
      · simp [bareCommand_eq_ok] at hd

theorem length_payloadBytes {n : Nat} {ws : List Word} (h : ws.length = payloadWords n) :
    (payloadBytes n ws).length = n := by
  rw [payloadBytes, List.length_take, length_flatMap_wordBytes, h, payloadWords]
  omega

end Sys2Proof

namespace Sys2Proof.Proofs

open Sys2Proof.Machine

/-- Settles O10: by the instruction's constructor; the fields of a command word and the bytes of a payload are
read back. -/
theorem decodeOfEncode : Obligations.DecodeOfEncode := fun _ hi => decode_encode hi

/-- Settles O11: an image that decodes is, an `ENQ` apart, what the instruction encodes to, and an encoding has
its instruction's format. -/
theorem encodeOfDecode : Obligations.EncodeOfDecode := fun _ _ hd =>
  ⟨format_of_decode hd, fun hne => (encode_of_decode hd).resolve_left fun ⟨_, bytes, hi⟩ => hne bytes hi⟩

/-- Settles O14: the header fixes the number of payload words, four bytes each, and the bytes are the first of
them. -/
theorem enqBytesComeFromTheirBits : Obligations.EnqBytesComeFromTheirBits := by
  intro h payload bytes hd
  have hcmd : decodeCommand h payload = .ok (.cmdEnq bytes) := hd
  obtain ⟨hpayload, rfl⟩ := decodeCommand_eq_cmdEnq hcmd
  rw [length_payloadBytes hpayload]
  refine ⟨rfl, hpayload, fun k hk => ?_⟩
  rw [payloadBytes, List.getElem?_take_of_lt hk, getElem?_flatMap_wordBytes]

/-- Settles O15, by decoding the five words. -/
theorem specWordsDecode : Obligations.SpecWordsDecode := by
  unfold Obligations.SpecWordsDecode
  decide

/-- Settles O13: the codes 1 to 13 lead to another answer each, and a code has 8 bits. -/
theorem stepCodesAreAssigned : Obligations.StepCodesAreAssigned := by
  intro code operands
  have hcode : (code.setWidth 32 : Word).toNat = code.toNat := BitVec.toNat_setWidth_of_le (by decide)
  have hlt := code.isLt
  have hd : decode (stepImage code operands) = decodeStep (code.setWidth 32) operands := rfl
  rw [hd, decodeStep_eq_unassigned, hcode]
  omega

end Sys2Proof.Proofs

/-! SUPPORT. How an operation can stop and what it cannot touch (spec 00_scope.md R4, 60_exceptions.md R300, R304,
R306): the only faults, the refusals, the frames of the two roles and of the handlers, and the obligations on
them. -/

namespace Sys2Proof.Machine

/-! ### Runs that end in no next state -/

section
variable {i : Instr} {lines : Nat → State → LineEnd} {P : Nat → State → Prop}

theorem runLines_ne_refused (fuel : Nat) : ∀ (cut : Option Nat) (k : Nat) (s : State) (r : Refusal),
    runLines i lines fuel cut k s ≠ .refused r := by
  induction fuel with
  | zero => exact fun _ _ _ _ => nofun
  | succ fuel ih =>
    intro cut k s r h
    cases hl : lines k s with
    | goOn k' s' =>
      simp only [runLines, hl] at h
      rcases cut with _ | _ | n
      · exact ih _ _ _ _ h
      · cases h
      · exact ih _ _ _ _ h
    | hold | call | last | ret | stop => simp [runLines, hl] at h

/-- A run that faults has come to a line that stops. -/
theorem exists_stop_of_runLines_fault (hgo : ∀ k s k' s', P k s → lines k s = .goOn k' s' → P k' s')
    (fuel : Nat) : ∀ {cut : Option Nat} {k : Nat} {s : State} {f : Fault}, P k s →
      runLines i lines fuel cut k s = .fault f → ∃ k' s', P k' s' ∧ lines k' s' = .stop f := by
  induction fuel with
  | zero => exact fun _ => nofun
  | succ fuel ih =>
    intro cut k s f hP h
    cases hl : lines k s with
    | goOn k' s' =>
      have hP' := hgo k s k' s' hP hl
      simp only [runLines, hl] at h
      rcases cut with _ | _ | n
      · exact ih hP' h
      · cases h
      · exact ih hP' h
    | stop f' =>
      rw [runLines_stop hl] at h
      cases h
      exact ⟨k, s, hP, hl⟩
    | hold | call | last | ret => simp [runLines, hl] at h

/-- A run none of whose lines stops takes a next state. -/
theorem exists_next_of_perform (hgo : ∀ k s k' s', P k s → lines k s = .goOn k' s' → P k' s')
    (hstop : ∀ k s f, P k s → lines k s ≠ .stop f) {fuel : Nat} {s : State} (hs : P s.line s.started) :
    ∃ t, perform i lines fuel s = .next t := by
  cases h : perform i lines fuel s with
  | next t => exact ⟨t, rfl⟩
  | fault f =>
    obtain ⟨k, u, hP, hl⟩ := exists_stop_of_runLines_fault hgo fuel hs h
    exact absurd hl (hstop k u f hP)
  | refused r => exact absurd h (runLines_ne_refused _ _ _ _ _)

/-- What every line keeps, and the calls do not decide, the operation keeps. -/
theorem perform_keeps {R : State → Prop} (hops : ∀ (s : State) (ops : List Call), R s → R { s with ops := ops })
    (hlines : ∀ k s, R s → (lines k s).Leaves R) {fuel : Nat} {s t : State} (hs : R s.started)
    (h : perform i lines fuel s = .next t) : R t :=
  have hleave {k : Nat} {u : State} {e : LineEnd} (hu : R u) (hl : lines k u = e) : e.Leaves R :=
    hl ▸ hlines k u hu
  runLines_induct (P := fun _ => R) (Q := R) (fun _ u hu => hops u _ hu) (fun _ _ _ _ hu hl => hleave hu hl)
    (fun _ _ s' hu hl => hops s' _ (hleave hu hl)) (fun _ _ _ _ s' hu hl => hops s' _ (hleave hu hl))
    (fun _ _ _ s' hu hl => hops s' _ (hleave hu hl)) (fun _ _ _ hu hl => hleave hu hl) fuel _ _ _ _ hs h

end

theorem LineEnd.Leaves.and {P Q : State → Prop} {e : LineEnd} (h : e.Leaves P) (h' : e.Leaves Q) :
    e.Leaves fun s => P s ∧ Q s := by
  cases e with
  | stop => trivial
  | _ => exact ⟨h, h'⟩

/-! ### The two faults (log 20) -/

/-- The only lines that stop: line 3 of `DATA_FRAME` and line 12 of `DISCOVER`. -/
theorem lines_stop {i : Instr} {lines : Nat → State → LineEnd} (hl : lines? i = some lines) {k : Nat}
    {s : State} {f : Fault} (h : lines k s = .stop f) :
    (i = .dataFrame ∧ k = 3 ∧ 512 < s.ctl.seq.slot ∧ f = .noSuchSlot s.ctl.seq.slot) ∨
    (i = .discover ∧ k = 12 ∧ 10 ≤ s.ctl.dlCount ∧ f = .noSuchEntry s.ctl.dlCount) := by
  cases i <;> cases hl
  case dataFrame =>
    dsimp only [dataFrameLines] at h
    split at h
    case h_4 =>
      split at h
      · cases h
      · next hslot =>
        cases h
        exact .inl ⟨rfl, rfl, Nat.le_of_not_lt hslot, rfl⟩
    all_goals (repeat' split at h) <;> cases h
  case discover =>
    dsimp only [discoverLines, branch] at h
    split at h
    case h_13 =>
      split at h
      · cases h
      · next hcount =>
        cases h
        exact .inr ⟨rfl, rfl, Nat.le_of_not_lt hcount, rfl⟩
    all_goals (repeat' split at h) <;> cases h
  case rxBreak | rxStrayFe | rxData =>
    unfold receiveLines at h
    split at h
    · dsimp only [deviceLines, deviceCase, branch] at h
      (repeat' split at h) <;> cases h
    · cases h
  case sendBreak | putSlot | releaseDe | bareBreak =>
    dsimp only [sendBreakLines, putSlotLines, releaseDeLines, bareBreakLines, branch, holdUntil, uartPutLine] at h
    (repeat' split at h) <;> cases h
  case scData | scPoll | scOther | fsStep =>
    dsimp only [scDataLines, scPollLines, scOtherLines, fsStepLines] at h
    (repeat' split at h) <;> cases h
  case cmdSet | cmdGet | cmdMax | cmdOn | cmdOff | cmdPoll | cmdClear =>
    dsimp only [setLines, getLines, maxLines, outputLines, pollLines, clearLines, branch] at h
    (repeat' split at h) <;> cases h
  case cmdEnq =>
    dsimp only [enqLines, enqStep] at h
    (repeat' split at h) <;> cases h
  case checkpoint | cycle | pollRange =>
    dsimp only [checkpointLines, cycleLines, pollRangeLines, branch] at h
    (repeat' split at h) <;> cases h

/-- `DISCOVER` that has cleared the count is before its next call: until then the count is the one it began
with. -/
theorem discoverLines_keep_dlCount {n k k' : Nat} {s s' : State} (h : k ≤ 2 ∨ s.ctl.dlCount = n)
    (hl : discoverLines k s = .goOn k' s') : k' ≤ 2 ∨ s'.ctl.dlCount = n := by
  dsimp only [discoverLines, branch] at hl
  split at hl
  case h_1 | h_2 | h_14 => cases hl; exact .inl (by omega)
  all_goals
    have hn : s.ctl.dlCount = n := h.resolve_left (by grind)
    (repeat' split at hl) <;> cases hl <;> exact .inr hn

/-! ### Refusals (R104) -/

theorem exec_of_absent {i : Instr} {s : State} (h : i.existsIn s.par.role = false) :
    exec i s = .refused .absentInRole := by
  cases hl : lines? i with
  | some lines => rw [exec_of_lines hl, h]; rfl
  | none =>
    rcases lines?_eq_none.1 hl with rfl | rfl | rfl
    · exact inRole_of_not_role _ (of_decide_eq_false h)
    · cases h
    · cases h

theorem exec_ne_refused {i : Instr} {s : State} (h : i.existsIn s.par.role = true) (r : Refusal) :
    exec i s ≠ .refused r := by
  cases hl : lines? i with
  | some lines =>
    rw [exec_of_lines hl, if_pos h]
    exact runLines_ne_refused _ _ _ _ _
  | none =>
    rcases lines?_eq_none.1 hl with rfl | rfl | rfl
    · rw [exec_drainOne (of_decide_eq_true h)]
      nofun
    · nofun
    · nofun

/-- An operation that takes a next state is one of the present role. -/
theorem existsIn_of_exec_next {i : Instr} {s t : State} (h : exec i s = .next t) :
    i.existsIn s.par.role = true := by
  cases he : i.existsIn s.par.role with
  | true => rfl
  | false =>
    rw [exec_of_absent he] at h
    cases h

/-- The handlers and `RESET` always complete. -/
theorem exists_next_of_atomic {i : Instr} {s : State} (hl : lines? i = none)
    (hr : i.existsIn s.par.role = true) : ∃ t, exec i s = .next t := by
  rcases lines?_eq_none.1 hl with rfl | rfl | rfl
  · exact ⟨_, exec_drainOne (of_decide_eq_true hr)⟩
  · exact ⟨_, rfl⟩
  · exact ⟨_, rfl⟩

/-- Started at its first line, every operation of the role completes: `DATA_FRAME` and `DISCOVER` call before
they come to a line that can stop. -/
theorem exists_next_of_line_zero {i : Instr} {s : State} (hr : i.existsIn s.par.role = true)
    (hline : s.line = 0) : ∃ t, exec i s = .next t := by
  cases hl : lines? i with
  | none => exact exists_next_of_atomic hl hr
  | some lines =>
    rw [exec_of_lines hl, if_pos hr]
    refine exists_next_of_perform (P := fun k _ => (i = .dataFrame → k = 0) ∧ (i = .discover → k ≤ 2)) ?_ ?_ ?_
    · rintro k u k' u' ⟨hframe, hdisc⟩ hgo
      constructor
      · rintro rfl
        obtain rfl := hframe rfl
        cases hl
        cases hgo
      · rintro rfl
        cases hl
        obtain rfl | rfl | rfl : k = 0 ∨ k = 1 ∨ k = 2 := by have := hdisc rfl; omega
        all_goals cases hgo <;> omega
    · rintro k u f ⟨hframe, hdisc⟩ hstop
      rcases lines_stop hl hstop with ⟨hi, rfl, -⟩ | ⟨hi, rfl, -⟩
      · exact absurd (hframe hi) (by decide)
      · exact absurd (hdisc hi) (by decide)
    · exact ⟨fun _ => hline, fun _ => by omega⟩

/-! ### The frames of the two roles (R4) -/

theorem lines_keep_ctl_of_device {i : Instr} {lines : Nat → State → LineEnd} (hl : lines? i = some lines)
    (hi : i.existsIn .device = true) (k : Nat) {s : State} (hr : s.par.role = .device) :
    (lines k s).Leaves fun u => u.ctl = s.ctl := by
  cases i <;> cases hl <;> try cases hi
  case rxBreak | rxStrayFe | rxData =>
    rw [receiveLines_of_device _ k hr]
    refine (deviceLines_frame _ k s).mono ?_
    rintro _ ⟨_, _, _, _, rfl⟩
    rfl
  case scData | scPoll | scOther | fsStep =>
    dsimp only [scDataLines, scPollLines, scOtherLines, fsStepLines]
    (repeat' split) <;> simp only [LineEnd.Leaves, State.setCounter] <;> rfl
  case bareBreak =>
    dsimp only [bareBreakLines, holdUntil, uartPutLine]
    (repeat' split) <;> simp only [LineEnd.Leaves, setDe_eq] <;> rfl

theorem lines_keep_dev_of_controller {i : Instr} {lines : Nat → State → LineEnd} (hl : lines? i = some lines)
    (hi : i.existsIn .controller = true) (k : Nat) {s : State} (hr : s.par.role = .controller) :
    (lines k s).Leaves fun u => u.dev = s.dev := by
  cases i <;> cases hl <;> try cases hi
  case rxBreak | rxStrayFe | rxData =>
    rw [receiveLines_of_controller _ k hr]
    rfl
  case cmdEnq bytes =>
    refine (enqLines_frame bytes k s).mono ?_
    rintro _ ⟨_, _, _, _, _, rfl⟩
    rfl
  case sendBreak | putSlot | releaseDe =>
    dsimp only [sendBreakLines, putSlotLines, releaseDeLines, branch, holdUntil, uartPutLine]
    (repeat' split) <;> simp only [LineEnd.Leaves, setDe_eq] <;> rfl
  case cmdSet | cmdGet | cmdMax | cmdOn | cmdOff | cmdPoll | cmdClear =>
    dsimp only [setLines, getLines, maxLines, outputLines, pollLines, clearLines, branch]
    (repeat' split) <;> rfl
  case dataFrame | checkpoint | cycle | pollRange | discover =>
    dsimp only [dataFrameLines, checkpointLines, cycleLines, pollRangeLines, discoverLines, branch]
    (repeat' split) <;> trivial

/-- A step of one role: the parameters stay, and so does the other role's state. -/
structure InRole (s t : State) : Prop where
  par : t.par = s.par
  ctl : s.par.role = .device → t.ctl = s.ctl
  dev : s.par.role = .controller → t.dev = s.dev

theorem inRole_of_exec_tick {s t : State} (h : exec .tick s = .next t) : InRole s t := by
  cases h
  have hframe := (ticked_tickCounters s).frame
  have hled := (ticked_tickCounters s).actLed
  refine ⟨by rw [hframe], fun _ => by rw [hframe], fun hr => ?_⟩
  rw [hr] at hled
  rw [hframe, hled]
  rfl

theorem inRole_of_exec_drainOne {s t : State} (h : exec .drainOne s = .next t) : InRole s t := by
  obtain ⟨hr, ht⟩ := inRole_eq_next.1 h
  cases ht
  have hframe : (drainBody s).par = s.par ∧ (drainBody s).dev = s.dev := by
    rw [drainBody_eq]
    split <;> exact ⟨rfl, rfl⟩
  exact ⟨hframe.1, fun hd => (by rw [hr] at hd; cases hd), fun _ => hframe.2⟩

theorem inRole_of_exec {i : Instr} {s t : State} (hreset : i ≠ .reset) (h : exec i s = .next t) :
    InRole s t := by
  cases hl : lines? i with
  | none =>
    rcases lines?_eq_none.1 hl with rfl | rfl | rfl
    · exact inRole_of_exec_drainOne h
    · exact inRole_of_exec_tick h
    · exact absurd rfl hreset
  | some lines =>
    have hi := existsIn_of_exec_next h
    obtain ⟨fuel, hp⟩ := perform_of_exec_next hl h
    have hpar {k : Nat} {u : State} (hu : u.par = s.par) : (lines k u).Leaves fun u' => u'.par = s.par :=
      (lines_keep_par_line hl k u).mono fun _ h => h.1.trans hu
    refine ⟨perform_keeps (R := fun u => u.par = s.par) (fun _ _ hu => hu) (fun _ _ => hpar) rfl hp, fun hr => ?_,
      fun hr => ?_⟩
    · rw [hr] at hi
      refine (perform_keeps (R := fun u => u.par = s.par ∧ u.ctl = s.ctl) (fun _ _ hu => hu) ?_ ⟨rfl, rfl⟩ hp).2
      rintro k u ⟨hu, hctl⟩
      exact (hpar hu).and ((lines_keep_ctl_of_device hl hi k (hu ▸ hr)).mono fun _ h => h.trans hctl)
    · rw [hr] at hi
      refine (perform_keeps (R := fun u => u.par = s.par ∧ u.dev = s.dev) (fun _ _ hu => hu) ?_ ⟨rfl, rfl⟩ hp).2
      rintro k u ⟨hu, hdev⟩
      exact (hpar hu).and ((lines_keep_dev_of_controller hl hi k (hu ▸ hr)).mono fun _ h => h.trans hdev)

/-! ### One step -/

/-- The state after the boundary's draw, in which a handler or the main loop goes on. -/
def State.atBoundary (s : State) : State := s.drawEvent.2.raise s.drawEvent.1

/-- What a step can be: reset, a handler, the loop of the role, the operation called last, or the answer to an
image that stands for no operation. -/
inductive StepFrom (s : State) : Result → Prop where
  | reset (hr : s.drawEvent.1.reset = true) : StepFrom s (exec .reset s.drawEvent.2)
  | tick (hr : s.drawEvent.1.reset = false) : StepFrom s (exec .tick s.atBoundary)
  | drain (hr : s.drawEvent.1.reset = false) (hp : s.atBoundary.ctl.pendDrain = true) :
    StepFrom s (exec .drainOne s.atBoundary)
  | loop (hr : s.drawEvent.1.reset = false) (ho : s.ops = []) : StepFrom s (exec (loopInstr s) s.atBoundary)
  | called {c : Call} {later : List Call} {i : Instr} (hr : s.drawEvent.1.reset = false)
    (ho : s.ops = c :: later) (hd : decode c.image = .ok i) :
    StepFrom s (exec i { s.atBoundary with ops := later, line := c.line })
  | illegal {c : Call} {later : List Call} {e : DecodeError} (hr : s.drawEvent.1.reset = false)
    (ho : s.ops = c :: later) (hd : decode c.image = .error e) (hc : c.image.fmt = .cmd) :
    StepFrom s (illegalCommand { s.atBoundary with ops := later })
  | nothing {c : Call} {later : List Call} {e : DecodeError} (ho : s.ops = c :: later)
    (hd : decode c.image = .error e) (hc : c.image.fmt ≠ .cmd) : StepFrom s (.refused .noOperation)

theorem stepFrom (s : State) : StepFrom s (step s) := by
  rcases fetch_cases s with ⟨hr, hf⟩ | ⟨hr, ⟨i, hi, hf⟩ | ⟨-, -, hf⟩⟩
  · exact step_of_fetch_run hf ▸ .reset hr
  · rcases hi with ⟨rfl, -⟩ | ⟨rfl, hp⟩
    · exact step_of_fetch_run hf ▸ .tick hr
    · exact step_of_fetch_run hf ▸ .drain hr hp
  · rcases fetchMain_cases s.atBoundary with ⟨ho, hm⟩ | ⟨c, later, ho, ⟨i, hd, hm⟩ | ⟨⟨e, hd⟩, hm⟩⟩
    · exact step_of_fetch_run (hf.trans hm) ▸ .loop hr ho
    · exact step_of_fetch_run (hf.trans hm) ▸ .called hr ho hd
    · by_cases hc : c.image.fmt = .cmd
      · rw [if_pos hc] at hm
        exact step_of_fetch_illegal (hf.trans hm) ▸ .illegal hr ho hd hc
      · rw [if_neg hc] at hm
        have hstep : step s = .refused .noOperation := by simp only [step, hf.trans hm]
        exact hstep ▸ .nothing ho hd hc

/-- The boundary of a device raises no drain request (R301). -/
theorem ctl_atBoundary_of_device {s : State} (hr : s.par.role = .device) : s.atBoundary.ctl = s.ctl := by
  simp [State.atBoundary, State.raise, hr]

theorem InRole.of_atBoundary {s u t : State} (h : InRole u t) (hpar : u.par = s.par) (hdev : u.dev = s.dev)
    (hctl : u.ctl = s.atBoundary.ctl) : InRole s t where
  par := h.par.trans hpar
  ctl hr := (h.ctl (hpar ▸ hr)).trans (hctl.trans (ctl_atBoundary_of_device hr))
  dev hr := (h.dev (hpar ▸ hr)).trans hdev

theorem inRole_of_step {s t : State} (hs : Safe s = true) (hr : s.drawEvent.1.reset = false)
    (h : step s = .next t) : InRole s t := by
  have hfrom := stepFrom s
  rw [h] at hfrom
  generalize hres : Host.Outcome.next t = r at hfrom
  cases hfrom with
  | reset hreset => exact absurd hreset (Bool.eq_false_iff.1 hr)
  | tick => exact (inRole_of_exec_tick hres.symm).of_atBoundary rfl rfl rfl
  | drain => exact (inRole_of_exec_drainOne hres.symm).of_atBoundary rfl rfl rfl
  | loop => exact (inRole_of_exec (loopInstr_ne_reset s) hres.symm).of_atBoundary rfl rfl rfl
  | called _ ho hd => exact (inRole_of_exec (called_ne_reset hs ho hd) hres.symm).of_atBoundary rfl rfl rfl
  | illegal =>
    obtain ⟨-, ht⟩ := inRole_eq_next.1 hres.symm
    cases ht
    exact ⟨rfl, ctl_atBoundary_of_device, fun _ => rfl⟩
  | nothing => cases hres

/-! ### The order of the requests (R304) -/

/-- The state with another controller's state and console. -/
def State.withConsole (s : State) (ctl : Controller) (console : List Byte) : State :=
  { s with ctl := ctl, out := { s.out with console := console } }

section
variable (s : State) (ctl : Controller) (console : List Byte) (c : CounterId)

theorem counter_withConsole : (s.withConsole ctl console).counter c = s.counter c := by
  cases c <;> rfl

theorem setCounter_withConsole (n : Nat) :
    (s.withConsole ctl console).setCounter c n = (s.setCounter c n).withConsole ctl console := by
  cases c <;> rfl

theorem expire_withConsole :
    (s.withConsole ctl console).expire c = (s.expire c).withConsole ctl console := by
  rw [expire_eq, expire_eq]
  rfl

/-- A tick looks at neither the controller's state nor the console. -/
theorem tickCounter_withConsole :
    tickCounter c (s.withConsole ctl console) = (tickCounter c s).withConsole ctl console := by
  simp only [tickCounter, counter_withConsole, setCounter_withConsole, expire_withConsole]
  split
  · rfl
  · split <;> rfl

end

/-- The state after `DRAIN_ONE`. -/
def State.drained (s : State) : State :=
  { drainBody s with ctl := { (drainBody s).ctl with pendDrain := false } }

theorem drained_eq (s : State) : s.drained =
    if s.ctl.head = s.ctl.tail then
      s.withConsole { s.ctl with full := ringFull s.ctl.head s.ctl.tail, pendDrain := false } s.out.console
    else
      s.withConsole { s.ctl with
        tail := s.ctl.tail + 1, full := ringFull s.ctl.head (s.ctl.tail + 1), pendDrain := false }
        (s.out.console ++ [s.ringRead s.ctl.tail]) := by
  rw [State.drained, drainBody_eq]
  split <;> rfl

/-- A drain and a tick of one counter can change places. -/
theorem tickCounter_drained (c : CounterId) (s : State) :
    tickCounter c s.drained = (tickCounter c s).drained := by
  have hctl : (tickCounter c s).ctl = s.ctl := by rw [tickCounter_eq]
  have hconsole : (tickCounter c s).out.console = s.out.console := by rw [tickCounter_eq]
  have hread : (tickCounter c s).ringRead s.ctl.tail = s.ringRead s.ctl.tail := by rw [tickCounter_eq]; rfl
  rw [drained_eq, drained_eq, hctl, hconsole, hread]
  split <;> exact tickCounter_withConsole ..

theorem drained_ticked (s : State) :
    State.drained { s with pendTick := false } = { s.drained with pendTick := false } := by
  rw [drained_eq, drained_eq]
  split <;> rfl

/-- The two handlers in either order lead to one state. -/
theorem exec_handlers_in_either_order {s : State} (hr : s.par.role = .controller) :
    ∃ a b t : State, exec .tick s = .next a ∧ exec .drainOne a = .next t ∧
      exec .drainOne s = .next b ∧ exec .tick b = .next t := by
  have hra : (tickCounter .noData (tickCounter .green (tickCounter .red s))).par.role = .controller := by
    rw [par_tickCounter, par_tickCounter, par_tickCounter, hr]
  refine ⟨_, s.drained, _, exec_tick s, exec_drainOne hra, exec_drainOne hr, ?_⟩
  rw [exec_tick, tickCounter_drained, tickCounter_drained, tickCounter_drained]
  exact congrArg _ (drained_ticked _).symm

/-! ### Handlers before the main loop -/

theorem step_of_handler {s : State} {i : Instr} (hr : s.drawEvent.1.reset = false)
    (hi : s.atBoundary.handler s.drawEvent.1 = some i) : step s = exec i s.atBoundary := by
  have hf : fetch s = .run i s.atBoundary := by
    unfold State.atBoundary at hi
    simp only [fetch, hr, hi]
    rfl
  exact step_of_fetch_run hf

end Sys2Proof.Machine

namespace Sys2Proof.Proofs

open Sys2Proof.Machine

/-- Settles O9: `RESET` apart, which only the boundary runs, no operation of a role has a line that writes a
parameter or the other role's state. -/
theorem stepsStayInTheirRole : Obligations.StepsStayInTheirRole := by
  intro s t hs hr h
  obtain ⟨hpar, hctl, hdev⟩ := inRole_of_step hs hr h
  exact ⟨hpar, hctl, hdev⟩

/-- Settles O18: the boundary's draw decides what `fetch` finds, and a tick and a drain write different parts of
the state. -/
theorem requestsAreTakenFirstInEitherOrder : Obligations.RequestsAreTakenFirstInEitherOrder := by
  refine ⟨fun s hr => ?reset, fun s u hr hu => ?handlers, fun s => exec_handlers_in_either_order⟩
  case reset =>
    have hf : fetch s = .run .reset s.drawEvent.2 := by simp only [fetch, hr, if_true]
    exact step_of_fetch_run hf
  case handlers =>
    subst hu
    refine ⟨fun ht hp => step_of_handler hr ?_, fun ht hp => step_of_handler hr ?_, fun ht hp => ?_⟩
    · simp only [State.handler, State.atBoundary, ht, hp, Bool.not_false, Bool.or_true, Bool.and_true, if_true]
    · simp only [State.handler, State.atBoundary, ht, hp, Bool.false_and, Bool.false_eq_true, if_false, if_true]
    · cases hfirst : s.drawEvent.1.tickFirst
      · exact step_of_handler hr (by simp only [State.handler, State.atBoundary, ht, hp, hfirst]; rfl)
      · exact step_of_handler hr (by simp only [State.handler, State.atBoundary, ht, hp, hfirst]; rfl)

/-- Settles O19: the frames of the two handlers. -/
theorem handlersLeaveControlState : Obligations.HandlersLeaveControlState := by
  rintro i s t (rfl | rfl) h
  · cases h
    rw [(ticked_tickCounters s).frame]
    simp
  · obtain ⟨-, ht⟩ := inRole_eq_next.1 h
    cases ht
    rw [drainBody_eq]
    split <;> simp

/-- Settles O6: a safe state is between steps, and from its first line every operation comes to a call, a hold or
its return. -/
theorem operationsOfTheRoleComplete : Obligations.OperationsOfTheRoleComplete := by
  intro i s hs hr
  have hline : s.line = 0 := by
    simp only [Safe, Bool.and_eq_true, decide_eq_true_eq] at hs
    grind
  exact exists_next_of_line_zero hr hline

/-- Settles O7: every operation asks for its role first, and no line refuses. -/
theorem onlyAbsentOperationsAreRefused : Obligations.OnlyAbsentOperationsAreRefused :=
  ⟨fun _ _ => exec_of_absent, fun _ _ r hr => exec_ne_refused hr r⟩

/-- Settles O8: two lines only can stop, and until line 12 of `DISCOVER` the count is the one it began with. -/
theorem onlyNonexistentElementsFault : Obligations.OnlyNonexistentElementsFault := by
  refine ⟨fun i s f h => ?only, fun s k hr hk hseq hlo hhi => ?slot, fun s hr hk hcount => ?entry⟩
  case only =>
    cases hl : lines? i with
    | none =>
      rcases lines?_eq_none.1 hl with rfl | rfl | rfl
      · by_cases hr : s.par.role = .controller
        · rw [exec_drainOne hr] at h
          cases h
        · cases (inRole_of_not_role _ hr).symm.trans h
      · cases h
      · cases h
    | some lines =>
      rw [exec_of_lines hl] at h
      split at h
      · have hgo : ∀ k u k' u', (i = .discover → k ≤ 2 ∨ u.ctl.dlCount = s.ctl.dlCount) →
            lines k u = .goOn k' u' → i = .discover → k' ≤ 2 ∨ u'.ctl.dlCount = s.ctl.dlCount := by
          rintro k u k' u' hu hline rfl
          cases hl
          exact discoverLines_keep_dlCount (hu rfl) hline
        rw [perform] at h
        obtain ⟨k, u, hu, hstop⟩ := exists_stop_of_runLines_fault hgo _
          (s := s.started) (fun _ => .inr rfl) h
        rcases lines_stop hl hstop with ⟨hi, -, hslot, hf⟩ | ⟨hi, rfl, hcount, hf⟩
        · exact .inl ⟨_, hi, hslot, hf⟩
        · have hn : u.ctl.dlCount = s.ctl.dlCount := (hu hi).resolve_left (by decide)
          exact .inr ⟨hi, hn ▸ hcount, hn ▸ hf⟩
      · cases h
  case slot =>
    have htest : dataFrameLines 2 s.started = .goOn 3 s.started := if_pos (by rw [started_ctl, hseq]; exact hhi)
    have hread : dataFrameLines 3 s.started = .stop (.noSuchSlot k) := by
      dsimp only [dataFrameLines]
      rw [started_ctl, hseq]
      exact if_neg (Nat.not_lt.2 hlo)
    rw [performs_dataFrame.exec_of_runsFrom hr hk]
    exact (runLines_goOn htest).trans (runLines_stop hread)
  case entry =>
    have happend : discoverLines 12 s.started = .stop (.noSuchEntry s.ctl.dlCount) := if_neg (Nat.not_lt.2 hcount)
    rw [performs_discover.exec_of_runsFrom hr hk]
    exact runLines_stop happend

end Sys2Proof.Proofs

/-! SUPPORT. What the host's commands can write (spec 41_controller.md R169), and the role a placed word runs in
(log 13): the frame of a command's lines, and the obligations on commands, placed words and reset. -/

namespace Sys2Proof.Machine

/-! ### A role that has the operation (R104) -/

theorem exists_role (i : Instr) : i.existsIn .controller = true ∨ i.existsIn .device = true := by
  cases i <;> simp [Instr.existsIn]

theorem existsIn_roleFor (i : Instr) (r : Role) :
    i.existsIn (roleFor i r) = true ∧ (i.existsIn r = true → roleFor i r = r) := by
  unfold roleFor
  split
  · next h => exact ⟨h, fun _ => rfl⟩
  · next h =>
    refine ⟨?_, fun h' => absurd h' h⟩
    split
    · assumption
    · next hc => exact (exists_role i).resolve_left hc

theorem decode_of_decodeTableWord {nbits w : Nat} {i : Instr} (h : decodeTableWord nbits w = some i) :
    decode (tableImage nbits w) = .ok i := by
  unfold decodeTableWord at h
  split at h
  · next hd =>
    cases h
    exact hd
  · cases h

/-! ### The lines of a command -/

/-- What a command leaves as it is (R169): the state but for the registers a command may write, the calls and the
responses. -/
def State.besideCommands (s : State) : State :=
  { s with
    ctl := { s.ctl with
      chan := [], maxDmxAddr := 0, outEn := false, discPending := false, rb := [], head := 0, full := false
      enq := none }
    ops := []
    out := { s.out with resp := [] } }

/-- What of the ring a command may write: all of it only an `ENQ` does (R169). -/
def State.ringPart (s : State) : Memory 8 × Byte × Bool × Option EnqCall :=
  (s.ctl.rb, s.ctl.head, s.ctl.full, s.ctl.enq)

/-- A state that is written by commands only is written back to `s` by giving the registers of a command their
values. -/
theorem eq_of_besideCommands_eq {s t : State} (h : t.besideCommands = s.besideCommands) :
    t = { s with
      ctl := { s.ctl with
        chan := t.ctl.chan, maxDmxAddr := t.ctl.maxDmxAddr, outEn := t.ctl.outEn
        discPending := t.ctl.discPending, rb := t.ctl.rb, head := t.ctl.head, full := t.ctl.full
        enq := t.ctl.enq }
      ops := t.ops
      out := { s.out with resp := t.out.resp } } := by
  exact congrArg (fun u : State => { u with
    ctl := { u.ctl with
      chan := t.ctl.chan, maxDmxAddr := t.ctl.maxDmxAddr, outEn := t.ctl.outEn
      discPending := t.ctl.discPending, rb := t.ctl.rb, head := t.ctl.head, full := t.ctl.full
      enq := t.ctl.enq }
    ops := t.ops
    out := { u.out with resp := t.out.resp } }) h

/-- The line goes on or returns, and the state it leaves meets `P`. -/
def LineEnd.Proceeds (P : State → Prop) : LineEnd → Prop
  | .goOn _ s | .ret s => P s
  | .hold _ | .call _ _ _ | .last _ _ | .stop _ => False

variable {i : Instr} {lines : Nat → State → LineEnd}

/-- An operation all of whose lines go on or return has returned, or stands called where it was stopped. -/
theorem runLines_of_proceeds {R : State → Prop} (hlines : ∀ k s, R s → (lines k s).Proceeds R)
    {fuel : Nat} {cut : Option Nat} {k : Nat} {s t : State} (hs : R s)
    (h : runLines i lines fuel cut k s = .next t) : R t ∨ ∃ k' u, R u ∧ t = u.callAt i k' := by
  have hline {k : Nat} {u : State} {e : LineEnd} (hu : R u) (hl : lines k u = e) : e.Proceeds R :=
    hl ▸ hlines k u hu
  exact runLines_induct (P := fun _ => R) (Q := fun t => R t ∨ ∃ k' u, R u ∧ t = u.callAt i k')
    (fun k u hu => .inr ⟨k, u, hu, rfl⟩) (fun _ _ _ _ hu hl => hline hu hl)
    (fun _ _ _ hu hl => (hline hu hl).elim) (fun _ _ _ _ _ hu hl => (hline hu hl).elim)
    (fun _ _ _ _ hu hl => (hline hu hl).elim) (fun _ _ _ hu hl => .inl (hline hu hl)) fuel cut k s t hs h

theorem LineEnd.Proceeds.mono {P Q : State → Prop} {e : LineEnd} (h : e.Proceeds P) (hPQ : ∀ s, P s → Q s) :
    e.Proceeds Q := by
  cases e with
  | goOn | ret => exact hPQ _ h
  | _ => exact h

/-- What a line of the command `i` leaves of `s`. -/
structure CommandLeaves (i : Instr) (s u : State) : Prop where
  ops : u.ops = s.ops
  beside : u.besideCommands = s.besideCommands
  ring : (∀ bytes, i ≠ .cmdEnq bytes) → u.ringPart = s.ringPart

theorem CommandLeaves.rfl {s : State} : CommandLeaves i s s := ⟨Eq.refl _, Eq.refl _, fun _ => Eq.refl _⟩

theorem CommandLeaves.trans {s u v : State} (h : CommandLeaves i s u) (h' : CommandLeaves i u v) :
    CommandLeaves i s v where
  ops := h'.ops.trans h.ops
  beside := h'.beside.trans h.beside
  ring hne := (h'.ring hne).trans (h.ring hne)

/-- A line of a command goes on or returns, and writes what a command may write. -/
theorem lines_of_command (hl : lines? i = some lines) (hi : i.format = .cmd) (k : Nat) (s : State) :
    (lines k s).Proceeds (CommandLeaves i s) := by
  cases i <;> cases hl <;> try cases hi
  case cmdEnq bytes =>
    unfold enqLines
    split
    case h_3 c _ =>
      obtain ⟨left, at_, t⟩ := c
      cases at_ <;> cases left <;> dsimp only [enqStep] <;> (try split) <;>
        exact ⟨rfl, rfl, fun h => absurd rfl (h bytes)⟩
    all_goals (try split) <;> exact ⟨rfl, rfl, fun h => absurd rfl (h bytes)⟩
  case cmdSet | cmdGet | cmdMax | cmdOn | cmdOff | cmdPoll | cmdClear =>
    dsimp only [setLines, getLines, maxLines, outputLines, pollLines, clearLines, branch]
    (repeat' split) <;> exact ⟨rfl, rfl, fun _ => rfl⟩

end Sys2Proof.Machine

namespace Sys2Proof.Proofs

open Sys2Proof.Machine

/-- Settles O17: the placed image is the operation called last at a quiet boundary, in the role `roleFor` names. -/
theorem stepRunsPlacedWord : Obligations.StepRunsPlacedWord := by
  intro s nbits w i hi
  have hd := decode_of_decodeTableWord hi
  obtain ⟨hhas, hpresent⟩ := existsIn_roleFor i s.par.role
  refine ⟨roleFor i s.par.role, hhas, hpresent, ?_⟩
  have hplaced : (s.withFetchWord nbits w).par = { s.par with role := roleFor i s.par.role } := by
    simp only [State.withFetchWord, placeImage, hd]
  obtain ⟨hrun, -⟩ := stepRunsDecodedInstruction (s.withFetchWord nbits w) rfl rfl rfl
  rw [hrun _ s.ops i rfl hd, hplaced]
  rfl

/-- Settles O27: every line of a command goes on or returns, and writes only what a command may write. -/
theorem commandsNeverTouchTheBus : Obligations.CommandsNeverTouchTheBus := by
  intro i s t hi h
  cases hl : lines? i with
  | none => rcases lines?_eq_none.1 hl with rfl | rfl | rfl <;> cases hi
  | some lines =>
    obtain ⟨fuel, hp⟩ := perform_of_exec_next hl h
    rw [perform] at hp
    have hlines (k : Nat) (u : State) (hu : CommandLeaves i s.started u) :
        (lines k u).Proceeds (CommandLeaves i s.started) :=
      (lines_of_command hl hi k u).mono fun _ => hu.trans
    rcases runLines_of_proceeds hlines .rfl hp with ⟨hops, hbeside, hring⟩ | ⟨k, u, ⟨hops, hbeside, hring⟩, rfl⟩
    · exact ⟨eq_of_besideCommands_eq hbeside, .inl hops, fun hne => by simpa [State.ringPart] using hring hne⟩
    · exact ⟨eq_of_besideCommands_eq hbeside, .inr ⟨k, congrArg _ hops⟩,
        fun hne => by simpa [State.ringPart] using hring hne⟩

/-- Settles O2: `RESET` leaves the one state `State.resetWith`. -/
theorem resetAbandonsEveryOperation : Obligations.ResetAbandonsEveryOperation := fun s =>
  ⟨_, exec_reset s, rfl, rfl, rfl, rfl, rfl, fun _ => rfl, fun _ => rfl, rfl, rfl, rfl⟩

/-- Settles O23: `SET` writes the slot that `GET` reads, and leaves the other draws and the calls as they are. -/
theorem setThenGetReturnsData : Obligations.SetThenGetReturnsData := by
  intro s a d hr hk hk' hlo hhi
  obtain ⟨t, hset, hvalid, -, ht⟩ := setWritesItsSlot s a d hr hk
  obtain ⟨hread, hresp⟩ := hvalid ⟨hlo, hhi⟩
  have htr : t.par.role = .controller := by rw [ht]; exact hr
  have htk : t.runsFrom 0 = true := by rw [ht]; exact hk'
  refine ⟨t, _, hset, getAnswersTheSlot t a htr htk, ?_⟩
  simp [hresp, hread, hlo, hhi]

end Sys2Proof.Proofs

/-! SUPPORT. The invariant taken apart at the operation that is executed next: what it asks of the values, of
the calls, and of `baud`, `enq` and the ring at a line; what each part reads, and how calls and returns put it
together again. -/

namespace Sys2Proof.Machine

/-! ### The parts of the invariant -/

/-- What the invariant asks of the values the state holds, whatever operation is next. -/
structure DataOk (s : State) : Prop where
  memories : memoriesOk s = true
  max : maxOk s = true
  list : listOk s = true
  seq : seqOk s = true
  line : s.line = 0
  written : ringWritten s = true
  device : deviceOk s = true
  requests : requestsOk s = true
  wire : wireOk s = true

/-- No Break character is being sent and no `ENQ` is in progress, and `full = 0` is right. -/
structure Idle (s : State) : Prop where
  baud : s.baud = .nominal
  enq : s.ctl.enq = none
  room : Room s

/-- The lines before which `baud` is `Slow` (R25). -/
def slowAt : Instr → Nat → Bool
  | .sendBreak _, k => decide (4 ≤ k) && decide (k ≤ 6)
  | .bareBreak, k => decide (2 ≤ k) && decide (k ≤ 4)
  | _, _ => false

/-- The lines before which an `ENQ` call is in progress (R42). -/
def enqueuingAt : Instr → Nat → Bool
  | .cmdEnq _, k => decide (1 ≤ k) && decide (k ≤ 3)
  | _, _ => false

/-- The ring as line `k` finds it (R270, R273): before E3 the byte of E2 is there. -/
def RingFits (k : Nat) (s : State) : Prop :=
  match s.ctl.enq with
  | none => Room s
  | some c => enqLineOk c k = true ∧ c.Fits s ∧
    (c.at_ = .e3 → Memory.lookup s.ctl.rb s.ctl.head.toNat = c.left.head?)

/-- The baud mode, `enq` and the ring as line `k` of `i` finds them. -/
structure Tuned (i : Instr) (k : Nat) (s : State) : Prop where
  baud : decide (s.baud = .slow) = slowAt i k
  enq : s.ctl.enq.isSome = enqueuingAt i k
  ring : RingFits k s

/-- `i` was called by the first of the calls `below`; called by nothing, it is the loop of the role. -/
def CalledBy (s : State) (i : Instr) : List Call → Prop
  | [] => i = loopInstr s
  | d :: _ => ∃ caller, d.instr = some caller ∧ mayCall s caller d.line i = true

/-- The calls `i` stands on: `i` was called by the last of them, and they fit the state. -/
structure Under (i : Instr) (s : State) : Prop where
  caller : CalledBy s i s.ops
  below : callsOk s s.ops = true

/-- `i` can stand at line `k` on the calls of `s`. -/
structure Stands (i : Instr) (k : Nat) (s : State) : Prop where
  role : i.existsIn s.par.role = true
  wf : WellFormed i = true
  line : lineOk s i k = true
  under : Under i s

/-- The invariant of a state in which `i`, at line `k`, is executed next, the calls of `s` below it. -/
structure At (i : Instr) (k : Nat) (s : State) : Prop where
  data : DataOk s
  stands : Stands i k s
  returned : i = .cycle → k = 4 → s.ctl.seq = .boundary
  tuned : Tuned i k s

theorem callsOk_with_ops (s : State) (ops calls : List Call) :
    callsOk { s with ops := ops } calls = callsOk s calls := by
  induction calls with
  | nil => rfl
  | cons c below ih =>
    simp only [callsOk, ih]
    rfl

/-- A call fits the state together with those below it when its operation can stand on them. -/
theorem callsOk_cons_iff {s : State} {c : Call} {below : List Call} {i : Instr} (hi : c.instr = some i) :
    callsOk s (c :: below) = true ↔ Stands i c.line { s with ops := below } := by
  have hcaller : callsOk s (c :: below) = true ↔ (((i.existsIn s.par.role = true ∧ WellFormed i = true) ∧
      lineOk s i c.line = true) ∧ CalledBy s i below) ∧ callsOk s below = true := by
    cases below with
    | nil => simp [callsOk, hi, CalledBy]
    | cons d below => simp [callsOk, hi, CalledBy, Option.any_eq_true]
  rw [hcaller, ← callsOk_with_ops s below below]
  exact ⟨fun ⟨⟨⟨⟨hrole, hwf⟩, hline⟩, hcaller⟩, hbelow⟩ => ⟨hrole, hwf, hline, hcaller, hbelow⟩,
    fun ⟨hrole, hwf, hline, hcaller, hbelow⟩ => ⟨⟨⟨⟨hrole, hwf⟩, hline⟩, hcaller⟩, hbelow⟩⟩

theorem ringOk_iff_of_top {s : State} {i : Instr} {k : Nat} (ht : s.top = some (i, k)) :
    ringOk s = true ↔ ringWritten s = true ∧ RingFits k s := by
  simp only [ringOk, RingFits, Bool.and_eq_true, ht, Option.all_some]
  refine and_congr_right fun _ => ?_
  cases s.ctl.enq with
  | none => simp [Room, ringFull]
  | some c =>
    simp only [Bool.and_eq_true, EnqCall.Fits, Room]
    cases c.at_ <;> simp [ringFull]

theorem baudOk_iff_of_top {s : State} {i : Instr} {k : Nat} (ht : s.top = some (i, k)) :
    baudOk s = true ↔ decide (s.baud = .slow) = slowAt i k := by
  simp only [baudOk, ht, beq_iff_eq]
  cases i <;> rfl

theorem enqOk_iff_of_top {s : State} {i : Instr} {k : Nat} (ht : s.top = some (i, k)) :
    enqOk s = true ↔ s.ctl.enq.isSome = enqueuingAt i k := by
  simp only [enqOk, ht, beq_iff_eq]
  cases i <;> rfl

theorem returnedOk_iff_of_top {s : State} {i : Instr} {k : Nat} (ht : s.top = some (i, k)) :
    returnedOk s = true ↔ (i = .cycle → k = 4 → s.ctl.seq = .boundary) := by
  simp only [returnedOk, ht]
  split
  · next h => cases h; simp
  · next h =>
    simp only [true_iff]
    rintro rfl rfl
    exact absurd rfl h

/-- The invariant of a state with a call: that of what is executed next. -/
theorem safe_iff_of_called {s : State} {c : Call} {below : List Call} {i : Instr} (ho : s.ops = c :: below)
    (hi : c.instr = some i) : Safe s = true ↔ At i c.line { s with ops := below } := by
  have ht : s.top = some (i, c.line) := by simp [State.top, ho, hi]
  have hcalls : callsOk s s.ops = true ↔ Stands i c.line { s with ops := below } := by
    rw [ho, callsOk_cons_iff hi]
  simp only [Safe, Bool.and_eq_true, hcalls, returnedOk_iff_of_top ht, baudOk_iff_of_top ht,
    enqOk_iff_of_top ht, ringOk_iff_of_top ht, decide_eq_true_eq]
  constructor
  · rintro ⟨⟨⟨⟨⟨⟨⟨⟨⟨⟨⟨⟨h1, h2⟩, h3⟩, h4⟩, h5⟩, h6⟩, h7⟩, h8⟩, h9⟩, h10, h11⟩, h12⟩, h13⟩, h14⟩
    exact ⟨⟨h1, h2, h3, h4, h7, h10, h12, h13, h14⟩, h5, h6, h8, h9, h11⟩
  · rintro ⟨⟨h1, h2, h3, h4, h7, h10, h12, h13, h14⟩, h5, h6, h8, h9, h11⟩
    exact ⟨⟨⟨⟨⟨⟨⟨⟨⟨⟨⟨⟨h1, h2⟩, h3⟩, h4⟩, h5⟩, h6⟩, h7⟩, h8⟩, h9⟩, h10, h11⟩, h12⟩, h13⟩, h14⟩

/-- The invariant of a state with no call. -/
theorem safe_iff_of_none_called {s : State} (ho : s.ops = []) : Safe s = true ↔ DataOk s ∧ Idle s := by
  have ht : s.top = none := by simp [State.top, ho]
  have hbaud : baudOk s = true ↔ s.baud = .nominal := by
    simp only [baudOk, ht]
    cases s.baud <;> simp
  have henq : enqOk s = true ↔ s.ctl.enq = none := by
    simp [enqOk, ht]
  have hring (he : s.ctl.enq = none) : ringOk s = true ↔ ringWritten s = true ∧ Room s := by
    simp [ringOk, he, Room, ringFull]
  simp only [Safe, Bool.and_eq_true, ho, callsOk, returnedOk, ht, hbaud, henq, decide_eq_true_eq, and_true]
  constructor
  · rintro ⟨⟨⟨⟨⟨⟨⟨⟨⟨⟨h1, h2⟩, h3⟩, h4⟩, h5⟩, h6⟩, h7⟩, h8⟩, h9⟩, h10⟩, h11⟩
    obtain ⟨hw, hroom⟩ := (hring h7).1 h8
    exact ⟨⟨h1, h2, h3, h4, h5, hw, h9, h10, h11⟩, h6, h7, hroom⟩
  · rintro ⟨⟨h1, h2, h3, h4, h5, hw, h9, h10, h11⟩, h6, h7, hroom⟩
    exact ⟨⟨⟨⟨⟨⟨⟨⟨⟨⟨h1, h2⟩, h3⟩, h4⟩, h5⟩, h6⟩, h7⟩, (hring h7).2 ⟨hw, hroom⟩⟩, h9⟩, h10⟩, h11⟩

/-! ### What the parts read -/

/-- What `DataOk` reads. -/
def State.values (s : State) :=
  ((s.par, s.line, s.out.wire),
    (s.ctl.chan, s.ctl.maxDmxAddr, s.ctl.dl, s.ctl.dlCount, s.ctl.seq, s.ctl.pendDrain),
    (s.ctl.rb, s.ctl.head, s.ctl.tail),
    (s.dev.slot, s.dev.pollIdx, s.dev.pollAddr, s.dev.addr))

/-- What `Tuned` and `Idle` read. -/
def State.tuning (s : State) := (s.baud, s.ctl.enq, s.ctl.rb, s.ctl.head, s.ctl.tail, s.ctl.full)

/-- All that the invariant reads but the calls. -/
def State.checked (s : State) := (s.values, s.tuning)

/-- What the calls below the operation executed read: they are between two lines, and no line they can be at
reads more. -/
def State.place (s : State) := (s.ops, s.par.role, s.ctl.seq)

theorem DataOk.congr {s s' : State} (hd : DataOk s) (h : s'.values = s.values) : DataOk s' := by
  obtain ⟨h1, h2, h3, h4, h5, h6, h7, h8, h9⟩ := hd
  simp only [State.values, Prod.mk.injEq] at h
  constructor <;>
    simp_all only [memoriesOk, maxOk, listOk, seqOk, ringWritten, deviceOk, requestsOk, wireOk]

theorem Idle.congr {s s' : State} (hi : Idle s) (h : s'.tuning = s.tuning) : Idle s' := by
  obtain ⟨hbaud, henq, hroom⟩ := hi
  simp only [State.tuning, Prod.mk.injEq] at h
  constructor <;> simp_all only [Room]

theorem Tuned.congr {i : Instr} {k : Nat} {s s' : State} (ht : Tuned i k s) (h : s'.tuning = s.tuning) :
    Tuned i k s' := by
  obtain ⟨hbaud, henq, hring⟩ := ht
  simp only [State.tuning, Prod.mk.injEq] at h
  obtain ⟨hb, he, hrb, hhead, htail, hfull⟩ := h
  refine ⟨hb ▸ hbaud, he ▸ henq, ?_⟩
  simpa only [RingFits, EnqCall.Fits, Room, he, hrb, hhead, htail, hfull] using hring

/-- A line at which an operation waits for one that it called reads the sequencer's position only. -/
theorem lineOk_of_mayCall {s s' : State} {i j : Instr} {k : Nat} (h : mayCall s i k j = true)
    (hseq : s'.ctl.seq = s.ctl.seq) : lineOk s' i k = lineOk s i k := by
  unfold mayCall at h
  split at h
  case h_14 => cases h
  all_goals simp only [lineOk, cycleLineOk, dataFrameLineOk, pollRangeLineOk, discoverLineOk, hseq]

theorem mayCall_congr {s s' : State} (hseq : s'.ctl.seq = s.ctl.seq) (i : Instr) (k : Nat) (j : Instr) :
    mayCall s' i k j = mayCall s i k j := by
  simp only [mayCall, hseq]

theorem loopInstr_congr {s s' : State} (hrole : s'.par.role = s.par.role) : loopInstr s' = loopInstr s := by
  simp only [loopInstr, hrole]

/-- Calls under an operation still fit a state of the same role and position. -/
theorem calls_congr {s s' : State} (hrole : s'.par.role = s.par.role) (hseq : s'.ctl.seq = s.ctl.seq)
    (calls : List Call) : ∀ {i : Instr}, CalledBy s i calls → callsOk s calls = true →
      CalledBy s' i calls ∧ callsOk s' calls = true := by
  induction calls with
  | nil => exact fun hc _ => ⟨hc.trans (loopInstr_congr hrole).symm, rfl⟩
  | cons d below ih =>
    rintro i ⟨caller, hd, hcall⟩ hok
    obtain ⟨hr, hwf, hline, hcaller, hbelow⟩ := (callsOk_cons_iff hd).1 hok
    rw [callsOk_with_ops] at hbelow
    obtain ⟨hcaller', hbelow'⟩ := ih hcaller hbelow
    refine ⟨⟨caller, hd, (mayCall_congr hseq ..).trans hcall⟩, ?_⟩
    refine (callsOk_cons_iff hd).2 ⟨?_, hwf, ?_, hcaller', ?_⟩
    · exact hrole ▸ hr
    · exact (lineOk_of_mayCall hcall hseq).trans hline
    · rwa [callsOk_with_ops]

theorem Under.congr {i : Instr} {s s' : State} (h : Under i s) (hplace : s'.place = s.place) : Under i s' := by
  simp only [State.place, Prod.mk.injEq] at hplace
  obtain ⟨hops, hrole, hseq⟩ := hplace
  obtain ⟨hcaller, hbelow⟩ := calls_congr hrole hseq s.ops h.caller h.below
  exact ⟨hops ▸ hcaller, hops ▸ hbelow⟩

theorem Stands.congr {i : Instr} {k k' : Nat} {s s' : State} (h : Stands i k s) (hplace : s'.place = s.place)
    (hline : lineOk s' i k' = true) : Stands i k' s' := by
  have hrole : s'.par.role = s.par.role := by
    simp only [State.place, Prod.mk.injEq] at hplace
    exact hplace.2.1
  exact ⟨hrole ▸ h.role, h.wf, hline, h.under.congr hplace⟩

/-! ### What leads to the invariant -/

/-- Neither a Break operation nor an `ENQ`, which alone find `baud`, `enq` or the ring changed. -/
def plain : Instr → Bool
  | .sendBreak _ | .bareBreak | .cmdEnq _ => false
  | _ => true

/-- The values in order, with no Break being sent and no `ENQ` in progress. -/
structure Settled (s : State) : Prop where
  data : DataOk s
  idle : Idle s

theorem Settled.congr {s s' : State} (hs : Settled s) (h : s'.checked = s.checked) : Settled s' :=
  ⟨hs.data.congr (congrArg Prod.fst h), hs.idle.congr (congrArg Prod.snd h)⟩

theorem Settled.of_data {s s' : State} (hs : Settled s) (hd : DataOk s') (h : s'.tuning = s.tuning) :
    Settled s' :=
  ⟨hd, hs.idle.congr h⟩

theorem tuned_iff_idle {i : Instr} {k : Nat} {s : State} (hslow : slowAt i k = false)
    (henq : enqueuingAt i k = false) : Tuned i k s ↔ Idle s := by
  constructor
  · rintro ⟨hb, he, hr⟩
    rw [hslow] at hb
    rw [henq, Option.isSome_eq_false_iff, Option.isNone_iff_eq_none] at he
    refine ⟨?_, he, by simpa only [RingFits, he] using hr⟩
    cases hs : s.baud
    · rfl
    · simp [hs] at hb
  · rintro ⟨hb, he, hr⟩
    exact ⟨by simp [hb, hslow], by simp [he, henq], by simpa only [RingFits, he] using hr⟩

theorem slowAt_of_plain {i : Instr} (hi : plain i = true) (k : Nat) : slowAt i k = false := by
  unfold slowAt
  split
  · cases hi
  · cases hi
  · rfl

theorem enqueuingAt_of_plain {i : Instr} (hi : plain i = true) (k : Nat) : enqueuingAt i k = false := by
  unfold enqueuingAt
  split
  · cases hi
  · rfl

theorem plain_of_mayCall {s : State} {i j : Instr} {k : Nat} (h : mayCall s i k j = true) : plain i = true := by
  unfold mayCall at h
  split at h
  case h_14 => cases h
  all_goals rfl

theorem At.settled {i : Instr} {k : Nat} {s : State} (h : At i k s) (hslow : slowAt i k = false)
    (henq : enqueuingAt i k = false) : Settled s := ⟨h.data, (tuned_iff_idle hslow henq).1 h.tuned⟩

theorem instr_encode {i : Instr} (hi : WellFormed i = true) (k : Nat) : Call.instr ⟨encode i, k⟩ = some i := by
  simp only [Call.instr, decode_encode hi]

theorem At.safe {i : Instr} {k : Nat} {s : State} (h : At i k s) : Safe (s.callAt i k) = true :=
  (safe_iff_of_called rfl (instr_encode h.stands.wf k)).2 h

/-- An operation that returns leaves the invariant to the one that called it. -/
theorem Under.safe_of_return {i : Instr} {s : State} (hu : Under i s) (hloop : i ≠ loopInstr s) (hs : Settled s)
    (hdisc : i = .discover → s.ctl.seq = .boundary) : Safe s = true := by
  obtain ⟨hcaller, hbelow⟩ := hu
  cases ho : s.ops with
  | nil =>
    rw [ho] at hcaller
    exact absurd hcaller hloop
  | cons d below =>
    rw [ho] at hcaller hbelow
    obtain ⟨caller, hd, hcall⟩ := hcaller
    have hplain := plain_of_mayCall hcall
    refine (safe_iff_of_called ho hd).2 ⟨hs.data.congr rfl, (callsOk_cons_iff hd).1 hbelow, ?_,
      (tuned_iff_idle (slowAt_of_plain hplain _) (enqueuingAt_of_plain hplain _)).2 (hs.idle.congr rfl)⟩
    rintro rfl hline
    rw [hline] at hcall
    exact hdisc (of_decide_eq_true hcall)

/-- An operation can be put on top of calls that fit. -/
structure Enters (j : Instr) (s : State) : Prop where
  role : j.existsIn s.par.role = true
  wf : WellFormed j = true
  line : lineOk s j 0 = true

theorem enters_of_role {j : Instr} {r : Role} {s : State} (hr : s.par.role = r) (hj : j.existsIn r = true)
    (hwf : WellFormed j = true) (hline : lineOk s j 0 = true) : Enters j s := ⟨hr ▸ hj, hwf, hline⟩

theorem Under.safe_of_enter {j : Instr} {im : Image} {s : State} (hu : Under j s)
    (him : Call.instr ⟨im, 0⟩ = some j) (hj : Enters j s) (hs : Settled s) :
    Safe { s with ops := ⟨im, 0⟩ :: s.ops } = true := by
  have hslow : slowAt j 0 = false := by cases j <;> rfl
  have henq : enqueuingAt j 0 = false := by cases j <;> rfl
  exact (safe_iff_of_called rfl him).2 ⟨hs.data.congr rfl, ⟨hj.role, hj.wf, hj.line, hu⟩, nofun,
    (tuned_iff_idle hslow henq).2 (hs.idle.congr rfl)⟩

theorem Stands.safe_of_call {i j : Instr} {k : Nat} {s : State} (hi : Stands i k s)
    (hcall : mayCall s i k j = true) (hj : Enters j s) (hs : Settled s) :
    Safe ((s.callAt i k).callAt j 0) = true := by
  have henc := instr_encode hi.wf k
  have hbelow : callsOk s (⟨encode i, k⟩ :: s.ops) = true := (callsOk_cons_iff henc).2 hi
  have hu : Under j (s.callAt i k) := ⟨⟨i, henc, hcall⟩, (callsOk_with_ops ..).trans hbelow⟩
  exact hu.safe_of_enter (instr_encode hj.wf 0) ⟨hj.role, hj.wf, hj.line⟩ (hs.congr rfl)

end Sys2Proof.Machine

/-! SUPPORT. Lines that keep the invariant: what a line may end in, the writes that keep the values in order,
and the lines of the framer, of the host commands and of `ENQ` (spec 40_framer.md, 41_controller.md section 2,
44_ring_buffer.md section 2). -/

namespace Sys2Proof.Machine

/-! ### What writes the values -/

section
variable {s : State}

theorem DataOk.emit (h : DataOk s) {e : WireEvent} (he : ∀ b, e = .char b .slow → b = 0) :
    DataOk (s.emit e) := by
  obtain ⟨h1, h2, h3, h4, h5, h6, h7, h8, h9⟩ := h
  refine ⟨h1, h2, h3, h4, h5, h6, h7, h8, ?_⟩
  rw [wireOk, emit_out_wire, List.all_append, Bool.and_eq_true]
  refine ⟨h9, ?_⟩
  cases e with
  | de v => rfl
  | char b r =>
    cases r
    · rfl
    · simpa using he b rfl

theorem DataOk.setDe (h : DataOk s) (v : Bool) : DataOk (s.setDe v) := by
  unfold State.setDe
  split
  · exact h
  · have hd : DataOk { s with de := v } := h.congr rfl
    exact hd.emit (by simp)

theorem DataOk.goto (h : DataOk s) {p : SeqPos} (hp : seqOk (s.goto p) = true) : DataOk (s.goto p) := by
  obtain ⟨h1, h2, h3, -, h5, h6, h7, h8, h9⟩ := h
  exact ⟨h1, h2, h3, hp, h5, h6, h7, h8, h9⟩

theorem DataOk.chanWrite (h : DataOk s) {a : Nat} (ha : a < Config.nSlot) (d : Byte) :
    DataOk (s.chanWrite a d) := by
  obtain ⟨h1, h2, h3, h4, h5, h6, h7, h8, h9⟩ := h
  refine ⟨?_, h2, h3, h4, h5, h6, h7, h8, h9⟩
  simp only [memoriesOk, Bool.and_eq_true] at h1 ⊢
  exact ⟨⟨chanWrite_wf ha h1.1.1, h1.1.2⟩, h1.2⟩

theorem DataOk.setMax (h : DataOk s) {a : Addr} (ha : validSlot a = true) :
    DataOk { s with ctl := { s.ctl with maxDmxAddr := a } } := by
  obtain ⟨h1, h2, h3, h4, h5, h6, h7, h8, h9⟩ := h
  refine ⟨h1, ?_, h3, h4, h5, h6, h7, h8, h9⟩
  simp only [maxOk, Bool.and_eq_true] at h2 ⊢
  exact ⟨h2.1, ha⟩

theorem DataOk.setDev (h : DataOk s) {d : Device} (hd : deviceOk { s with dev := d } = true) :
    DataOk { s with dev := d } := by
  obtain ⟨h1, h2, h3, h4, h5, h6, -, h8, h9⟩ := h
  exact ⟨h1, h2, h3, h4, h5, h6, hd, h8, h9⟩

end

/-! ### A line that keeps the invariant -/

/-- How a line of `i` may end, line `k` being the one that ends: whatever state the step can stop in meets the
invariant. -/
def LineEnd.Keeps (i : Instr) (k : Nat) : LineEnd → Prop
  | .goOn k' s => At i k' s
  | .hold s => At i k s
  | .call j k' s => Safe ((s.callAt i k').callAt j 0) = true
  | .last im s => Safe { s with ops := ⟨im, 0⟩ :: s.ops } = true
  | .ret s => Safe s = true
  | .stop _ => False

section
variable {i : Instr} {k k' k'' : Nat} {s s' : State}

theorem keeps_holdUntil {c : Bool} (hgo : At i k' s) (hhold : At i k s) : (holdUntil c k' s).Keeps i k := by
  unfold holdUntil
  split
  · exact hgo
  · exact hhold

theorem keeps_branch {c : Prop} [Decidable c] (ht : c → At i k' s) (hf : ¬c → At i k'' s) :
    (branch c k' k'' s).Keeps i k := by
  unfold branch
  split
  · next hc => exact ht hc
  · next hc => exact hf hc

theorem keeps_uartPutLine {b : Byte} {next : State → LineEnd}
    (hput : (next (s.drawTxReady.2.uartPut b)).Keeps i k) (hhold : At i k s.drawTxReady.2) :
    (uartPutLine b next s).Keeps i k := by
  unfold uartPutLine
  split
  · exact hput
  · exact hhold

theorem keeps_call {j : Instr} (hi : Stands i k' s) (hcall : mayCall s i k' j = true) (hj : Enters j s)
    (hs : Settled s) : (LineEnd.call j k' s).Keeps i k := hi.safe_of_call hcall hj hs

theorem keeps_last {j : Instr} {im : Image} (hu : Under j s) (him : Call.instr ⟨im, 0⟩ = some j)
    (hj : Enters j s) (hs : Settled s) : (LineEnd.last im s).Keeps i k := hu.safe_of_enter him hj hs

/-- An operation of which none is the loop of the role. -/
theorem ne_loopInstr (hc : i ≠ .cycle) (hf : i ≠ .fsStep) (s : State) : i ≠ loopInstr s := by
  unfold loopInstr
  split
  · exact hc
  · exact hf

theorem Settled.tuned (hs : Settled s) (hi : plain i = true) : Tuned i k s :=
  (tuned_iff_idle (slowAt_of_plain hi k) (enqueuingAt_of_plain hi k)).2 hs.idle

theorem At.settled_of_plain (h : At i k s) (hi : plain i = true) : Settled s :=
  h.settled (slowAt_of_plain hi k) (enqueuingAt_of_plain hi k)

theorem At.goOn_plain (h : At i k s) (hs : Settled s') (hplace : s'.place = s.place)
    (hline : lineOk s' i k' = true) (hi : plain i = true) (hc : i ≠ .cycle) : At i k' s' :=
  ⟨hs.data, h.stands.congr hplace hline, fun h => absurd h hc, hs.tuned hi⟩

/-- The operations that wait for none that they called. -/
theorem At.ret (h : At i k s) (hs : Settled s') (hplace : s'.place = s.place)
    (hi : i ≠ .cycle ∧ i ≠ .fsStep ∧ i ≠ .discover) : Safe s' = true :=
  (h.stands.under.congr hplace).safe_of_return (ne_loopInstr hi.1 hi.2.1 s') hs fun h => absurd h hi.2.2

end

/-! ### The framer -/

section
variable {k : Nat} {s : State}

/-- A line of a Break operation that goes on, `baud` being as line `k'` finds it. -/
theorem At.shift {i : Instr} {k' : Nat} {s' : State} (h : At i k s)
    (hi : i = .bareBreak ∨ ∃ sc, i = .sendBreak sc) (hd : DataOk s') (hplace : s'.place = s.place)
    (hctl : s'.ctl = s.ctl) (hbaud : decide (s'.baud = .slow) = slowAt i k') : At i k' s' := by
  have hline : lineOk s' i k' = true := by rcases hi with rfl | ⟨sc, rfl⟩ <;> rfl
  have hnone : enqueuingAt i k = false ∧ enqueuingAt i k' = false := by
    rcases hi with rfl | ⟨sc, rfl⟩ <;> exact ⟨rfl, rfl⟩
  obtain ⟨-, he, hr⟩ := h.tuned
  rw [hnone.1, Option.isSome_eq_false_iff, Option.isNone_iff_eq_none] at he
  refine ⟨hd, h.stands.congr hplace hline, by rcases hi with rfl | ⟨sc, rfl⟩ <;> nofun, hbaud, ?_, ?_⟩
  · rw [hctl, he, hnone.2]
    rfl
  · simpa only [RingFits, hctl, he, Room] using hr

theorem DataOk.uartPut_zero (h : DataOk s) : DataOk (s.drawTxReady.2.uartPut 0) := by
  have hd : DataOk s.drawTxReady.2 := h.congr rfl
  exact hd.emit fun _ he => (WireEvent.char.inj he).1.symm

theorem DataOk.uartPut_nominal (h : DataOk s) (hs : s.baud = .nominal) (b : Byte) :
    DataOk (s.drawTxReady.2.uartPut b) := by
  have hd : DataOk s.drawTxReady.2 := h.congr rfl
  refine hd.emit fun _ he => ?_
  have hb : s.baud = .slow := (WireEvent.char.inj he).2
  rw [hs] at hb
  cases hb

theorem Settled.setDe (hs : Settled s) (v : Bool) : Settled (s.setDe v) :=
  hs.of_data (hs.data.setDe v) (by rw [setDe_eq]; rfl)

theorem sendBreakLines_keeps {sc : Byte} (h : At (.sendBreak sc) k s) :
    (sendBreakLines sc k s).Keeps (.sendBreak sc) k := by
  have hat {k' : Nat} {s' : State} := h.shift (k' := k') (s' := s') (.inr ⟨sc, rfl⟩)
  have hb := h.tuned.baud
  have hd := h.data
  unfold sendBreakLines
  split
  case h_1 => exact keeps_holdUntil (hat (hd.congr rfl) rfl rfl hb) (hat (hd.congr rfl) rfl rfl hb)
  case h_2 => exact keeps_branch (fun _ => hat hd rfl rfl hb) (fun _ => hat hd rfl rfl hb)
  case h_3 => exact hat (hd.setDe true) (by rw [setDe_eq]; rfl) (by rw [setDe_eq]) (by rw [setDe_eq]; exact hb)
  case h_4 => exact hat (hd.congr rfl) rfl rfl rfl
  case h_5 => exact keeps_uartPutLine (hat hd.uartPut_zero rfl rfl hb) (hat (hd.congr rfl) rfl rfl hb)
  case h_6 => exact keeps_holdUntil (hat (hd.congr rfl) rfl rfl hb) (hat (hd.congr rfl) rfl rfl hb)
  case h_7 => exact hat (hd.congr rfl) rfl rfl rfl
  case h_8 =>
    have hslow : slowAt (.sendBreak sc) k = false := by
      simp only [slowAt, Bool.and_eq_false_iff, decide_eq_false_iff_not]
      grind
    have hs := h.settled hslow rfl
    refine keeps_uartPutLine ?_ (hat (hd.congr rfl) rfl rfl hb)
    exact h.ret (hs.of_data (hd.uartPut_nominal hs.idle.baud sc) rfl) rfl ⟨nofun, nofun, nofun⟩

theorem bareBreakLines_keeps (h : At .bareBreak k s) : (bareBreakLines k s).Keeps .bareBreak k := by
  have hat {k' : Nat} {s' : State} := h.shift (k' := k') (s' := s') (.inl rfl)
  have hb := h.tuned.baud
  have hd := h.data
  unfold bareBreakLines
  split
  case h_1 => exact hat (hd.setDe true) (by rw [setDe_eq]; rfl) (by rw [setDe_eq]) (by rw [setDe_eq]; exact hb)
  case h_2 => exact hat (hd.congr rfl) rfl rfl rfl
  case h_3 => exact keeps_uartPutLine (hat hd.uartPut_zero rfl rfl hb) (hat (hd.congr rfl) rfl rfl hb)
  case h_4 => exact keeps_holdUntil (hat (hd.congr rfl) rfl rfl hb) (hat (hd.congr rfl) rfl rfl hb)
  case h_5 => exact hat (hd.congr rfl) rfl rfl rfl
  case h_6 =>
    have hslow : slowAt .bareBreak k = false := by
      simp only [slowAt, Bool.and_eq_false_iff, decide_eq_false_iff_not]
      grind
    exact h.ret ((h.settled hslow rfl).setDe false) (by rw [setDe_eq]; rfl) ⟨nofun, nofun, nofun⟩

theorem putSlotLines_keeps {b : Byte} (h : At (.putSlot b) k s) :
    (putSlotLines b k s).Keeps (.putSlot b) k := by
  have hs := h.settled_of_plain rfl
  have hat {k' : Nat} : At (.putSlot b) k' s.drawTxReady.2 := h.goOn_plain (hs.congr rfl) rfl rfl rfl nofun
  unfold putSlotLines
  split
  · exact keeps_holdUntil hat hat
  · refine keeps_uartPutLine ?_ hat
    exact h.ret (hs.of_data (hs.data.uartPut_nominal hs.idle.baud b) rfl) rfl ⟨nofun, nofun, nofun⟩

theorem releaseDeLines_keeps (h : At .releaseDe k s) : (releaseDeLines k s).Keeps .releaseDe k := by
  have hs := h.settled_of_plain rfl
  have hat {k' : Nat} : At .releaseDe k' s.drawTxEmpty.2 := h.goOn_plain (hs.congr rfl) rfl rfl rfl nofun
  unfold releaseDeLines
  split
  · exact keeps_holdUntil hat hat
  · exact h.ret (hs.setDe false) (by rw [setDe_eq]; rfl) ⟨nofun, nofun, nofun⟩

end

/-! ### Commands -/

section
variable {k : Nat} {s : State}

theorem setLines_keeps {a : Addr} {d : Byte} (h : At (.cmdSet a d) k s) :
    (setLines a d k s).Keeps (.cmdSet a d) k := by
  have hs := h.settled_of_plain rfl
  unfold setLines
  split
  case h_1 =>
    exact keeps_branch (fun ha => h.goOn_plain hs rfl ha rfl nofun) (fun _ => h.goOn_plain hs rfl rfl rfl nofun)
  case h_2 =>
    have ha : validSlot a = true := h.stands.line
    have hlt : a.toNat < Config.nSlot := Nat.lt_succ_of_le (validSlot_iff.1 ha).2
    exact h.goOn_plain (hs.of_data (hs.data.chanWrite hlt d) rfl) rfl rfl rfl nofun
  all_goals exact h.ret (hs.congr rfl) rfl ⟨nofun, nofun, nofun⟩

theorem getLines_keeps {a : Addr} (h : At (.cmdGet a) k s) : (getLines a k s).Keeps (.cmdGet a) k := by
  have hs := h.settled_of_plain rfl
  unfold getLines
  split
  case h_1 =>
    exact keeps_branch (fun ha => h.goOn_plain hs rfl ha rfl nofun) (fun _ => h.goOn_plain hs rfl rfl rfl nofun)
  all_goals exact h.ret (hs.congr rfl) rfl ⟨nofun, nofun, nofun⟩

theorem maxLines_keeps {a : Addr} (h : At (.cmdMax a) k s) : (maxLines a k s).Keeps (.cmdMax a) k := by
  have hs := h.settled_of_plain rfl
  unfold maxLines
  split
  case h_1 =>
    exact keeps_branch (fun ha => h.goOn_plain hs rfl ha rfl nofun) (fun _ => h.goOn_plain hs rfl rfl rfl nofun)
  case h_2 =>
    have ha : validSlot a = true := h.stands.line
    exact h.goOn_plain (hs.of_data (hs.data.setMax ha) rfl) rfl rfl rfl nofun
  all_goals exact h.ret (hs.congr rfl) rfl ⟨nofun, nofun, nofun⟩

theorem clearLines_keeps (h : At .cmdClear k s) : (clearLines k s).Keeps .cmdClear k := by
  have hs := h.settled_of_plain rfl
  unfold clearLines
  split
  · next hk =>
    exact h.goOn_plain (hs.of_data (hs.data.chanWrite hk 0) rfl) rfl rfl rfl nofun
  · exact h.ret (hs.congr rfl) rfl ⟨nofun, nofun, nofun⟩

theorem outputLines_keeps {i : Instr} (hi : i = .cmdOn ∨ i = .cmdOff) (v : Bool) (h : At i k s) :
    (outputLines v k s).Keeps i k := by
  have hp : plain i = true := by rcases hi with rfl | rfl <;> rfl
  have hline (k' : Nat) (s' : State) : lineOk s' i k' = true := by rcases hi with rfl | rfl <;> rfl
  have hne : i ≠ .cycle ∧ i ≠ .fsStep ∧ i ≠ .discover := by
    rcases hi with rfl | rfl <;> exact ⟨nofun, nofun, nofun⟩
  have hs := h.settled_of_plain hp
  unfold outputLines
  split
  · exact h.goOn_plain (hs.congr rfl) rfl (hline _ _) hp hne.1
  · exact h.ret (hs.congr rfl) rfl hne

theorem pollLines_keeps (h : At .cmdPoll k s) : (pollLines k s).Keeps .cmdPoll k :=
  h.ret ((h.settled_of_plain rfl).congr rfl) rfl ⟨nofun, nofun, nofun⟩

end

/-! ### `ENQ` -/

section
variable {k : Nat} {s : State}

theorem DataOk.ringWrite (h : DataOk s) (i b : Byte) : DataOk (s.ringWrite i b) := by
  obtain ⟨h1, h2, h3, h4, h5, h6, h7, h8, h9⟩ := h
  refine ⟨?_, h2, h3, h4, h5, ?_, h7, h8, h9⟩
  · simp only [memoriesOk, Bool.and_eq_true] at h1 ⊢
    exact ⟨⟨h1.1.1, ringWrite_wf h1.1.2⟩, h1.2⟩
  · simp only [ringWritten, List.all_eq_true] at h6 ⊢
    intro n hn
    rw [ringWrite_ctl_rb, ringBlank, Memory.lookup_write_none]
    split
    · rfl
    · exact h6 n hn

/-- E3 takes in the byte at `head`, which E2 has written. -/
theorem DataOk.head_succ (h : DataOk s) (hroom : s.ctl.head + 1 ≠ s.ctl.tail)
    (hwritten : (Memory.lookup s.ctl.rb s.ctl.head.toNat).isSome = true) :
    DataOk { s with ctl := { s.ctl with head := s.ctl.head + 1 } } := by
  obtain ⟨h1, h2, h3, h4, h5, h6, h7, h8, h9⟩ := h
  refine ⟨h1, h2, h3, h4, h5, ?_, h7, h8, h9⟩
  simp only [ringWritten, ringCount_head_succ hroom, List.range_succ, List.all_append, Bool.and_eq_true]
  refine ⟨h6, ?_⟩
  simpa only [List.all_cons, List.all_nil, tail_add_ringCount, Bool.and_true] using hwritten

/-- A line of `ENQ` that goes on with the ring and `enq` as line `k'` finds them. -/
theorem At.enq {bytes : List Byte} {k' : Nat} {s' : State} (h : At (.cmdEnq bytes) k s) (hd : DataOk s')
    (hplace : s'.place = s.place) (hbaud : s'.baud = s.baud)
    (henq : s'.ctl.enq.isSome = enqueuingAt (.cmdEnq bytes) k') (hring : RingFits k' s') :
    At (.cmdEnq bytes) k' s' :=
  ⟨hd, h.stands.congr hplace rfl, nofun, hbaud ▸ h.tuned.baud, henq, hring⟩

theorem enqStep_keeps {bytes : List Byte} {c : EnqCall} (h : At (.cmdEnq bytes) 2 s) (hc : s.ctl.enq = some c) :
    (enqStep c s).Keeps (.cmdEnq bytes) 2 := by
  have hd := h.data
  obtain ⟨left, at_, t⟩ := c
  have hring := h.tuned.ring
  simp only [RingFits, hc] at hring
  obtain ⟨hline, hfits, hbyte⟩ := hring
  cases left with
  | nil => simp [enqLineOk] at hline
  | cons b rest =>
    cases at_ with
    | e1 =>
      unfold enqStep
      dsimp only
      split
      · next hf => exact h.enq (hd.congr rfl) rfl rfl rfl (.inl hf)
      · next hf => exact h.enq (hd.congr rfl) rfl rfl rfl ⟨rfl, hfits.resolve_left hf, nofun⟩
    | e2 =>
      refine h.enq (DataOk.congr (hd.ringWrite s.ctl.head b) rfl) rfl rfl rfl ⟨rfl, hfits, fun _ => ?_⟩
      exact (Memory.lookup_write_none ..).trans (if_pos rfl)
    | e3 =>
      have hwritten : (Memory.lookup s.ctl.rb s.ctl.head.toNat).isSome = true := by
        rw [hbyte rfl]
        rfl
      exact h.enq (DataOk.congr (hd.head_succ hfits hwritten) rfl) rfl rfl rfl ⟨rfl, trivial, nofun⟩
    | e4 =>
      have hnew : ringCount s.ctl.tail s.ctl.tail ≤ ringCount s.ctl.head s.ctl.tail :=
        ringCount_self s.ctl.tail ▸ Nat.zero_le _
      exact h.enq (hd.congr rfl) rfl rfl rfl ⟨rfl, hnew, nofun⟩
    | e5 => exact h.enq (hd.congr rfl) rfl rfl rfl ⟨rfl, room_of_stale_tail hfits, nofun⟩

/-- Between two bytes, at the `while` test and at `k <- k + 1`, the call is at E1. -/
theorem room_of_ringFits {c : EnqCall} (h : RingFits k s) (hc : s.ctl.enq = some c) (hk : k = 1 ∨ k = 3) :
    c.at_ = .e1 ∧ Room s := by
  simp only [RingFits, hc] at h
  obtain ⟨hline, hfits, -⟩ := h
  simp only [enqLineOk, Bool.and_eq_true, Bool.or_eq_true, decide_eq_true_eq] at hline
  have hat : c.at_ = .e1 := hline.2.resolve_left (by omega)
  exact ⟨hat, by simpa only [EnqCall.Fits, hat] using hfits⟩

theorem enqLines_keeps {bytes : List Byte} (h : At (.cmdEnq bytes) k s) :
    (enqLines bytes k s).Keeps (.cmdEnq bytes) k := by
  have hd := h.data
  have hring := h.tuned.ring
  unfold enqLines
  split
  case h_1 =>
    have hroom := (h.settled rfl rfl).idle.room
    exact h.enq (hd.congr rfl) rfl rfl rfl ⟨rfl, hroom, nofun⟩
  case h_2 c hc =>
    obtain ⟨hat1, hroom⟩ := room_of_ringFits hring hc (.inl rfl)
    split
    · exact h.enq (hd.congr rfl) rfl rfl rfl hroom
    · next hleft =>
      refine h.enq hd rfl rfl (by rw [hc]; rfl) ?_
      simp only [RingFits, hc, EnqCall.Fits, hat1]
      exact ⟨by simp [enqLineOk, hleft], hroom, nofun⟩
  case h_3 c hc => exact enqStep_keeps h hc
  case h_4 c hc =>
    obtain ⟨hat1, hroom⟩ := room_of_ringFits hring hc (.inr rfl)
    refine h.enq (hd.congr rfl) rfl rfl rfl ?_
    simp only [RingFits, setEnq_ctl_enq, EnqCall.Fits, hat1]
    exact ⟨by simp [enqLineOk], hroom, nofun⟩
  case h_5 =>
    rename_i k _ _ h0 h1 h2 h3
    have hk : enqueuingAt (.cmdEnq bytes) k = false := by
      refine Bool.eq_false_iff.2 fun hk => ?_
      obtain ⟨c, hc⟩ := Option.isSome_iff_exists.1 (h.tuned.enq.trans hk)
      simp only [enqueuingAt, Bool.and_eq_true, decide_eq_true_eq] at hk
      obtain rfl | rfl | rfl : k = 1 ∨ k = 2 ∨ k = 3 := by omega
      · exact h1 c rfl hc
      · exact h2 c rfl hc
      · exact h3 c rfl hc
    exact h.ret ((h.settled rfl hk).congr rfl) rfl ⟨nofun, nofun, nofun⟩

end

end Sys2Proof.Machine

/-! SUPPORT. Lines that keep the invariant: `CHECKPOINT`, `FS_STEP` and the operations of a received character
(spec 41_controller.md R151, 43_frame_sync.md). -/

namespace Sys2Proof.Machine

/-! ### `CHECKPOINT` and the command it takes -/

/-- A host command that decodes is well formed: 10 bits hold no more than 1023. -/
theorem wellFormed_of_decode_command {ws : List Word} {i : Instr} (h : decode ⟨.cmd, ws, []⟩ = .ok i) :
    WellFormed i = true := by
  have hfmt := format_of_decode h
  cases i <;> try rfl
  case cmdEnq bytes =>
    cases ws with
    | nil => cases h
    | cons w payload =>
      have hcmd : decodeCommand w payload = .ok (.cmdEnq bytes) := h
      obtain ⟨hlen, rfl⟩ := decodeCommand_eq_cmdEnq hcmd
      have hlt := (cmdA w).isLt
      rw [WellFormed, length_payloadBytes hlen, decide_eq_true_eq]
      omega
  all_goals cases hfmt

/-- The words of a command stand for a command; illegal ones count as one (R168). -/
theorem instr_of_command (ws : List Word) (k : Nat) : ∃ j, Call.instr ⟨⟨.cmd, ws, []⟩, k⟩ = some j ∧
    j.format = .cmd ∧ WellFormed j = true := by
  cases h : decode ⟨.cmd, ws, []⟩ with
  | ok j => exact ⟨j, by simp only [Call.instr, h], format_of_decode h, wellFormed_of_decode_command h⟩
  | error e => exact ⟨.cmdOn, by simp only [Call.instr, h, if_true], rfl, rfl⟩

theorem enters_of_command {s : State} {j : Instr} (hj : j.format = .cmd) (hwf : WellFormed j = true)
    (hr : s.par.role = .controller) : Enters j s := by
  have hfirst : j.existsIn .controller = true ∧ lineOk s j 0 = true := by
    cases j <;> cases hj <;> exact ⟨rfl, rfl⟩
  exact enters_of_role hr hfirst.1 hwf hfirst.2

/-- What calls `CHECKPOINT` may find the command it took in its place. -/
theorem mayCall_command {s : State} {i j : Instr} {k : Nat} (h : mayCall s i k .checkpoint = true)
    (hj : j.format = .cmd) : mayCall s i k j = true := by
  unfold mayCall at h ⊢
  split at h <;> simp_all [Instr.format]

theorem under_of_mayCall {s : State} {i j : Instr} (h : Under i s) (hi : i ≠ loopInstr s)
    (hcall : ∀ caller k, caller.existsIn s.par.role = true → mayCall s caller k i = true →
      mayCall s caller k j = true) : Under j s := by
  obtain ⟨hcaller, hbelow⟩ := h
  refine ⟨?_, hbelow⟩
  cases ho : s.ops with
  | nil =>
    rw [ho] at hcaller
    exact absurd hcaller hi
  | cons d below =>
    rw [ho] at hcaller hbelow
    obtain ⟨caller, hd, hmay⟩ := hcaller
    exact ⟨caller, hd, hcall _ _ ((callsOk_cons_iff hd).1 hbelow).role hmay⟩

theorem At.controller {i : Instr} {k : Nat} {s : State} (h : At i k s) (hi : i.existsIn .device = false) :
    s.par.role = .controller := by
  have hr := h.stands.role
  cases hs : s.par.role
  · rfl
  · rw [hs, hi] at hr
    cases hr

section
variable {k : Nat} {s : State}

theorem checkpointLines_keeps (h : At .checkpoint k s) : (checkpointLines k s).Keeps .checkpoint k := by
  have hs := h.settled_of_plain rfl
  unfold checkpointLines
  split
  · obtain ⟨j, hj, hfmt, hwf⟩ := instr_of_command (s.env.cmd.take (nextLength s.env.cmd)) 0
    have hu := under_of_mayCall h.stands.under (ne_loopInstr (by simp) (by simp) s)
      fun _ _ _ hc => mayCall_command hc hfmt
    exact keeps_last (hu.congr rfl) hj (enters_of_command hfmt hwf (h.controller rfl)) (hs.congr rfl)
  · exact h.ret (hs.congr rfl) rfl ⟨nofun, nofun, nofun⟩

/-! ### Received characters -/

theorem enters_rx (c : RxChar) (s : State) : Enters c.instr s := by
  obtain ⟨b, fe⟩ := c
  cases fe
  · rw [instr_of_data]
    exact ⟨rfl, rfl, rfl⟩
  · by_cases hb : b = 0
    · subst hb
      exact ⟨rfl, rfl, rfl⟩
    · rw [instr_of_stray hb]
      exact ⟨rfl, decide_eq_true hb, rfl⟩

theorem format_rx (c : RxChar) : c.instr.format = .rxchar := by
  unfold RxChar.instr
  split
  · rfl
  · split <;> rfl

theorem fsStepLines_keeps (h : At .fsStep k s) : (fsStepLines k s).Keeps .fsStep k := by
  have hs := h.settled_of_plain rfl
  unfold fsStepLines
  split
  · exact h.goOn_plain (hs.congr rfl) rfl rfl rfl nofun
  · next c _ =>
    exact keeps_call (h.stands.congr rfl rfl) (by simp [mayCall, format_rx]) (enters_rx c _) (hs.congr rfl)

/-- A device writes its own registers within their ranges. -/
theorem Settled.setDev {d : Device} (hs : Settled s) (hslot : d.slot.toNat ≤ 512)
    (hidx : validSlot d.pollIdx = true) (hpoll : validSlot d.pollAddr = true) (haddr : validSlot d.addr = true) :
    Settled { s with dev := d } := by
  refine hs.of_data (hs.data.setDev ?_) rfl
  simp only [deviceOk, Bool.and_eq_true, decide_eq_true_eq]
  exact ⟨⟨⟨hslot, hidx⟩, hpoll⟩, haddr⟩

theorem Settled.ranges (hs : Settled s) : s.dev.slot.toNat ≤ 512 ∧ validSlot s.dev.pollIdx = true ∧
    validSlot s.dev.pollAddr = true ∧ validSlot s.dev.addr = true := by
  have hd := hs.data.device
  simp only [deviceOk, Bool.and_eq_true, decide_eq_true_eq, and_assoc] at hd
  exact hd

theorem Settled.setCounter (hs : Settled s) (c : CounterId) (n : Nat) : Settled (s.setCounter c n) := by
  rw [setCounter_eq]
  exact hs.congr rfl

theorem scDataLines_keeps (h : At .scData k s) : (scDataLines k s).Keeps .scData k := by
  have hs := h.settled_of_plain rfl
  obtain ⟨hslot, hidx, hpoll, haddr⟩ := hs.ranges
  unfold scDataLines
  split
  case h_1 => exact h.goOn_plain (hs.congr rfl) rfl rfl rfl nofun
  case h_2 =>
    have hone : (1 : Addr).toNat ≤ 512 := by decide
    exact h.goOn_plain (hs.setDev hone hidx hpoll haddr) rfl rfl rfl nofun
  case h_3 => exact h.goOn_plain (hs.setCounter _ _) (by rw [setCounter_eq]; rfl) rfl rfl nofun
  case h_4 =>
    split
    · exact h.goOn_plain hs rfl rfl rfl nofun
    · exact h.ret hs rfl ⟨nofun, nofun, nofun⟩
  case h_5 => exact h.ret (hs.congr rfl) rfl ⟨nofun, nofun, nofun⟩

theorem scPollLines_keeps (h : At .scPoll k s) : (scPollLines k s).Keeps .scPoll k := by
  have hs := h.settled_of_plain rfl
  obtain ⟨hslot, hidx, hpoll, haddr⟩ := hs.ranges
  unfold scPollLines
  split
  case h_1 => exact h.goOn_plain (hs.congr rfl) rfl rfl rfl nofun
  case h_2 =>
    have hone : validSlot 1 = true := by decide
    exact h.goOn_plain (hs.setDev hslot hone hpoll haddr) rfl rfl rfl nofun
  case h_3 => exact h.ret (hs.congr rfl) rfl ⟨nofun, nofun, nofun⟩

theorem scOtherLines_keeps {b : Byte} (h : At (.scOther b) k s) : (scOtherLines k s).Keeps (.scOther b) k :=
  h.ret ((h.settled_of_plain rfl).congr rfl) rfl ⟨nofun, nofun, nofun⟩

end

/-! ### A received character -/

section
variable {k k' : Nat} {s s' : State} {c : RxChar}

theorem lineOk_rx (c : RxChar) (k : Nat) (s : State) : lineOk s c.instr k = deviceLineOk k s := by
  unfold RxChar.instr
  split
  · rfl
  · split <;> rfl

theorem rx_not_special (c : RxChar) : plain c.instr = true ∧ c.instr ≠ .cycle ∧ c.instr ≠ .fsStep ∧
    c.instr ≠ .discover := by
  unfold RxChar.instr
  split
  · exact ⟨rfl, nofun, nofun, nofun⟩
  · split <;> exact ⟨rfl, nofun, nofun, nofun⟩

theorem At.goOn_rx (h : At c.instr k s) (hs : Settled s') (hplace : s'.place = s.place)
    (hline : deviceLineOk k' s' = true) : At c.instr k' s' :=
  h.goOn_plain hs hplace ((lineOk_rx ..).trans hline) (rx_not_special c).1 (rx_not_special c).2.1

theorem At.ret_rx (h : At c.instr k s) (hs : Settled s') (hplace : s'.place = s.place) : Safe s' = true :=
  h.ret hs hplace (rx_not_special c).2

/-- The line of a character is one of those that need nothing of the counters. -/
theorem deviceLineOk_of_lt (h : k < 18) (h' : k ≠ 12) (s : State) : deviceLineOk k s = true := by
  unfold deviceLineOk
  split
  · exact absurd rfl h'
  · simp [h]

/-- At a device only the loop calls a received character: what it runs in its place is called there too. -/
theorem mayCall_device {s : State} {i j : Instr} {m : Nat} (hi : i.existsIn .device = true)
    (hj : j.format = .sc ∨ j = .bareBreak) (h : mayCall s i m c.instr = true) : mayCall s i m j = true := by
  unfold mayCall at h
  split at h
  case h_13 => rcases hj with hj | rfl <;> simp [mayCall, *]
  case h_14 => cases h
  all_goals cases hi

theorem enters_startCode (b : Byte) (hr : s.par.role = .device) : Enters (startCode b) s := by
  unfold startCode
  split
  · exact enters_of_role hr rfl rfl rfl
  · split
    · exact enters_of_role hr rfl rfl rfl
    · next h h' => exact enters_of_role hr rfl (by simp [WellFormed, h, h']) rfl

theorem under_device (h : At c.instr k s) (hr : s.par.role = .device) {j : Instr}
    (hj : j.format = .sc ∨ j = .bareBreak) : Under j s :=
  under_of_mayCall h.stands.under (ne_loopInstr (rx_not_special c).2.1 (rx_not_special c).2.2.1 s)
    fun _ _ hi hc => mayCall_device (hr ▸ hi) hj hc

theorem format_startCode (b : Byte) : (startCode b).format = .sc := by
  unfold startCode
  split
  · rfl
  · split <;> rfl

theorem deviceCase_keeps {m : Nat} (h : At c.instr k s) (hr : s.par.role = .device) :
    (deviceCase c s).Keeps c.instr m := by
  have hs := h.settled_of_plain (rx_not_special c).1
  have hgo {k' : Nat} (hk : k' < 18) (hk' : k' ≠ 12) : At c.instr k' s :=
    h.goOn_rx hs rfl (deviceLineOk_of_lt hk hk' s)
  have hret : Safe s = true := h.ret_rx hs rfl
  unfold deviceCase
  split
  case h_1 =>
    split
    · exact hgo (by decide) (by decide)
    · exact hret
  case h_2 =>
    split
    · exact hgo (by decide) (by decide)
    · split
      · exact hret
      · exact hgo (by decide) (by decide)
  case h_3 =>
    have hinstr : Call.instr ⟨encode (startCode c.b), 0⟩ = some (startCode c.b) := by
      simp only [Call.instr, decode_encode_startCode]
    exact keeps_last (under_device h hr (.inl (format_startCode c.b))) hinstr (enters_startCode c.b hr) hs
  case h_4 => exact hgo (by decide) (by decide)

theorem toNat_succ_le {a : Addr} (h : a.toNat < 512) : (a + 1).toNat ≤ 512 := by
  bv_omega

theorem validSlot_succ {a : Addr} (h : a.toNat < 512) : validSlot (a + 1) = true :=
  validSlot_iff.2 ⟨by bv_omega, toNat_succ_le h⟩

theorem deviceLines_keeps (h : At c.instr k s) (hr : s.par.role = .device) :
    (deviceLines c k s).Keeps c.instr k := by
  have hs := h.settled_of_plain (rx_not_special c).1
  obtain ⟨hslot, hidx, hpoll, haddr⟩ := hs.ranges
  unfold deviceLines
  split
  case h_1 =>
    refine h.goOn_rx ?_ rfl rfl
    have hs' : Settled s.drawPins.2 := hs.congr rfl
    refine hs'.setDev hslot hidx hpoll (validSlot_iff.2 ?_)
    have hlt := s.env.pins.next.1.isLt
    rw [drawPins_fst, toNat_deviceAddress]
    omega
  case h_2 => exact deviceCase_keeps h hr
  case h_3 => exact h.goOn_rx (hs.congr rfl) rfl rfl
  case h_4 => exact h.ret_rx (hs.setDev hslot hidx haddr haddr) rfl
  case h_5 => exact keeps_branch (fun _ => h.goOn_rx hs rfl rfl) (fun _ => h.goOn_rx hs rfl rfl)
  case h_6 => exact keeps_branch (fun _ => h.goOn_rx hs rfl rfl) (fun _ => h.goOn_rx hs rfl rfl)
  case h_7 => exact h.goOn_rx (hs.setCounter _ _) (by rw [setCounter_eq]; rfl) rfl
  case h_8 | h_9 | h_10 => exact h.goOn_rx (hs.congr rfl) rfl rfl
  case h_11 =>
    refine keeps_branch (fun _ => h.goOn_rx hs rfl rfl) (fun hw => h.goOn_rx hs rfl ?_)
    simpa [deviceLineOk] using hw
  case h_12 => exact h.ret_rx (hs.setDev (by decide : (0 : Addr).toNat ≤ 512) hidx hpoll haddr) rfl
  case h_13 =>
    have hw : slotWraps s.dev.slot = false := by
      have hline := (lineOk_rx c 12 s).symm.trans h.stands.line
      simpa [deviceLineOk] using hline
    have hlt : s.dev.slot.toNat < 512 := Nat.le_of_not_lt (of_decide_eq_false hw)
    exact h.ret_rx (hs.setDev (toNat_succ_le hlt) hidx hpoll haddr) rfl
  case h_14 => exact keeps_branch (fun _ => h.goOn_rx hs rfl rfl) (fun _ => h.goOn_rx hs rfl rfl)
  case h_15 => exact h.goOn_rx (hs.congr rfl) rfl rfl
  case h_16 =>
    refine keeps_branch (fun _ => h.goOn_rx hs rfl rfl) (fun hw => h.goOn_rx hs rfl ?_)
    have hle := (validSlot_iff.1 hidx).2
    have hlt : s.dev.pollIdx.toNat < Config.nAddr := Nat.lt_of_le_of_ne hle hw
    simp [deviceLineOk, hlt]
  case h_17 => exact h.goOn_rx (hs.congr rfl) rfl rfl
  case h_18 =>
    split
    · exact keeps_last (under_device h hr (.inr rfl)) (instr_encode rfl 0) (enters_of_role hr rfl rfl rfl) hs
    · exact h.ret_rx hs rfl
  case h_19 =>
    have hlt : s.dev.pollIdx.toNat < 512 := by
      have hline := (lineOk_rx c k s).symm.trans h.stands.line
      unfold deviceLineOk at hline
      split at hline
      · grind
      · simp only [Bool.or_eq_true, decide_eq_true_eq] at hline
        exact hline.resolve_left (by grind)
    exact h.ret_rx (hs.setDev hslot (validSlot_succ hlt) hpoll haddr) rfl

theorem receiveLines_keeps (h : At c.instr k s) : (receiveLines c k s).Keeps c.instr k := by
  unfold receiveLines
  split
  · next hr => exact deviceLines_keeps h hr
  · exact h.ret_rx ((h.settled_of_plain (rx_not_special c).1).congr rfl) rfl

end

end Sys2Proof.Machine

/-! SUPPORT. Lines that keep the invariant: `CYCLE`, `DATA_FRAME` and `POLL_RANGE`, under which the sequencer's
position changes while their callers wait (spec 41_controller.md R150 to R152, 42_discovery.md R191). -/

namespace Sys2Proof.Machine

/-! ### What calls the sequencer's operations -/

section
variable {s : State} {i : Instr} {k mn mx : Nat}

theorem mayCall_cycle : mayCall s i k .cycle = false := by
  unfold mayCall
  split <;> simp [Instr.format]

/-- `CYCLE` calls `DATA_FRAME` and `DISCOVER`, at lines that ask nothing of the position. -/
theorem eq_cycle_of_mayCall {j : Instr} (hj : j = .dataFrame ∨ j = .discover) (h : mayCall s i k j = true) :
    i = .cycle ∧ (k = 0 ∨ k = 4) := by
  unfold mayCall at h
  rcases hj with rfl | rfl <;> split at h <;> simp_all [Instr.format]

/-- `DISCOVER` calls `POLL_RANGE`: the `while` poll with (1, 512), the others with the position's range. -/
theorem eq_discover_of_mayCall (h : mayCall s i k (.pollRange mn mx) = true) :
    i = .discover ∧ (k = 3 ∧ mn = 1 ∧ mx = Config.nAddr ∨ k = 7 ∧ s.ctl.seq.range = (mn, mx)) := by
  unfold mayCall at h
  split at h <;> simp_all [Instr.format]

end

/-! ### A change of the position under the calls -/

section
variable {s : State} {i : Instr} {k mn mx : Nat}

theorem Under.ops_of_cycle (h : Under .cycle s) : s.ops = [] := by
  obtain ⟨hcaller, -⟩ := h
  cases ho : s.ops with
  | nil => rfl
  | cons d below =>
    rw [ho] at hcaller
    obtain ⟨caller, -, hcall⟩ := hcaller
    rw [mayCall_cycle] at hcall
    cases hcall

theorem Under.goto_cycle (h : Under .cycle s) (p : SeqPos) : Under .cycle (s.goto p) := by
  have ho := h.ops_of_cycle
  have hcaller := h.caller
  rw [ho] at hcaller
  constructor
  · rw [goto_ops, ho]
    exact hcaller
  · rw [goto_ops, ho]
    rfl

/-- `CYCLE`, called by nothing, waits for what it called at any position. -/
theorem callsOk_cycle {d : Call} {below : List Call} (hd : d.instr = some .cycle)
    (hline : d.line = 0 ∨ d.line = 4) (h : callsOk s (d :: below) = true) (p : SeqPos) :
    callsOk (s.goto p) (d :: below) = true := by
  have hstands := (callsOk_cons_iff hd).1 h
  have hnil : below = [] := hstands.under.ops_of_cycle
  subst hnil
  refine (callsOk_cons_iff hd).2 ⟨hstands.role, rfl, ?_, hstands.under.caller, rfl⟩
  rcases hline with hk | hk <;> rw [hk] <;> rfl

theorem Under.goto_of_cycle (h : Under i s) (hi : i = .dataFrame ∨ i = .discover) (p : SeqPos) :
    Under i (s.goto p) := by
  obtain ⟨hcaller, hbelow⟩ := h
  cases ho : s.ops with
  | nil =>
    rw [ho] at hcaller
    have hne : i ≠ .cycle ∧ i ≠ .fsStep := by rcases hi with rfl | rfl <;> exact ⟨nofun, nofun⟩
    exact absurd hcaller (ne_loopInstr hne.1 hne.2 s)
  | cons d below =>
    rw [ho] at hcaller hbelow
    obtain ⟨caller, hd, hcall⟩ := hcaller
    obtain ⟨rfl, hline⟩ := eq_cycle_of_mayCall hi hcall
    have hcall' : mayCall (s.goto p) .cycle d.line i = true := by
      rcases hline with hk | hk <;> rw [hk] at hcall ⊢ <;> exact hcall
    constructor
    · rw [goto_ops, ho]
      exact ⟨.cycle, hd, hcall'⟩
    · rw [goto_ops, ho]
      exact callsOk_cycle hd hline hbelow p

/-- While a poll runs the position is its own, and `DISCOVER` waits for it with the range of the poll. -/
theorem Under.goto_poll (h : Under (.pollRange mn mx) s) (hr : polledRange mn mx = true) (stage : PollStage) :
    Under (.pollRange mn mx) (s.goto (.poll mn mx stage)) := by
  obtain ⟨hcaller, hbelow⟩ := h
  cases ho : s.ops with
  | nil =>
    rw [ho] at hcaller
    exact absurd hcaller (ne_loopInstr (by simp) (by simp) s)
  | cons d below =>
    rw [ho] at hcaller hbelow
    obtain ⟨caller, hd, hcall⟩ := hcaller
    obtain ⟨rfl, hline⟩ := eq_discover_of_mayCall hcall
    have hstands := (callsOk_cons_iff hd).1 hbelow
    have hu : Under .discover { s.goto (.poll mn mx stage) with ops := below } :=
      (hstands.under.goto_of_cycle (.inr rfl) (.poll mn mx stage)).congr rfl
    have hcall' : mayCall (s.goto (.poll mn mx stage)) .discover d.line (.pollRange mn mx) = true := by
      rcases hline with ⟨hk, rfl, rfl⟩ | ⟨hk, -⟩ <;> rw [hk] <;> simp [mayCall, SeqPos.range]
    constructor
    · rw [goto_ops, ho]
      exact ⟨.discover, hd, hcall'⟩
    · rw [goto_ops, ho]
      refine (callsOk_cons_iff hd).2 ⟨hstands.role, rfl, ?_, hu.caller, hu.below⟩
      simp only [polledRange, Bool.and_eq_true, decide_eq_true_eq] at hr
      rcases hline with ⟨hk, rfl, rfl⟩ | ⟨hk, -⟩ <;> rw [hk] <;>
        simp [lineOk, discoverLineOk, SeqPos.range, hr]

end

/-! ### `CYCLE` (R152) -/

section
variable {k k' : Nat} {s s' : State}

theorem Settled.goto (hs : Settled s) {p : SeqPos} (hp : seqOk (s.goto p) = true) : Settled (s.goto p) :=
  hs.of_data (hs.data.goto hp) rfl

/-- The position is `Boundary` at every line of `CYCLE` but 0 and 4, and at line 4 when nothing is called. -/
theorem At.seq_of_cycle (h : At .cycle k s) (hk : k ≠ 0) : s.ctl.seq = .boundary := by
  have hline : cycleLineOk k s = true := h.stands.line
  unfold cycleLineOk at hline
  split at hline
  · exact absurd rfl hk
  · exact h.returned rfl rfl
  · exact of_decide_eq_true hline

theorem cycleLineOk_of_boundary (hseq : s.ctl.seq = .boundary) (k : Nat) : cycleLineOk k s = true := by
  unfold cycleLineOk
  split
  · rfl
  · rfl
  · exact decide_eq_true hseq

theorem dataFrameLineOk_of_le (hk : k ≤ 1) (s : State) : dataFrameLineOk k s = true := by
  unfold dataFrameLineOk
  split
  · simp [Nat.le_succ_of_le hk]
  · exact decide_eq_true hk

theorem cycleLines_keeps (h : At .cycle k s) : (cycleLines k s).Keeps .cycle k := by
  have hs := h.settled_of_plain rfl
  have hr := h.controller rfl
  have hgo {k' : Nat} {s' : State} (hchecked : s'.checked = s.checked) (hplace : s'.place = s.place)
      (hseq : s'.ctl.seq = .boundary) : At .cycle k' s' :=
    ⟨hs.data.congr (congrArg Prod.fst hchecked), h.stands.congr hplace (cycleLineOk_of_boundary hseq k'),
      fun _ _ => hseq, (hs.congr hchecked).tuned rfl⟩
  have hcall {k' m : Nat} {j : Instr} (hseq : s.ctl.seq = .boundary) (hmay : mayCall s .cycle k' j = true)
      (hj : Enters j s) : (LineEnd.call j k' s).Keeps .cycle m :=
    keeps_call (h.stands.congr rfl (cycleLineOk_of_boundary hseq k')) hmay hj hs
  unfold cycleLines
  split
  case h_1 =>
    have hst : Stands .cycle 1 (s.goto .boundary) :=
      ⟨h.stands.role, rfl, rfl, h.stands.under.goto_cycle .boundary⟩
    exact keeps_call hst rfl (enters_of_role hr rfl rfl rfl) (hs.goto rfl)
  case h_2 =>
    have hseq := h.seq_of_cycle (by decide)
    exact keeps_branch (fun _ => hgo rfl rfl hseq) (fun _ => hgo rfl rfl hseq)
  case h_3 => exact hgo rfl rfl (h.seq_of_cycle (by decide))
  case h_4 => exact hcall (h.seq_of_cycle (by decide)) rfl (enters_of_role hr rfl rfl rfl)
  case h_5 => exact hgo rfl rfl (h.seq_of_cycle (by decide))
  case h_6 =>
    have hseq := h.seq_of_cycle (by decide)
    exact keeps_branch (fun _ => hgo rfl rfl hseq) (fun _ => hgo rfl rfl hseq)
  case h_7 h0 _ _ _ _ _ =>
    exact hcall (h.seq_of_cycle h0) rfl (enters_of_role hr rfl rfl (dataFrameLineOk_of_le (by decide) s))

end

/-! ### `DATA_FRAME` (R150) -/

section
variable {k : Nat} {s : State}

theorem At.goto_dataFrame {k' : Nat} (h : At .dataFrame k s) {p : SeqPos} (hp : seqOk (s.goto p) = true)
    (hline : dataFrameLineOk k' (s.goto p) = true) : At .dataFrame k' (s.goto p) :=
  have hs := (h.settled_of_plain rfl).goto hp
  ⟨hs.data, ⟨h.stands.role, rfl, hline, h.stands.under.goto_of_cycle (.inl rfl) p⟩, nofun, hs.tuned rfl⟩

/-- From its test on `DATA_FRAME` stands at a slot, and past it at one that exists. -/
theorem slot_of_dataFrameLineOk (h : dataFrameLineOk k s = true) (hk : 2 ≤ k) :
    s.ctl.seq = .frame s.ctl.seq.slot ∧ (3 ≤ k → s.ctl.seq.slot ≤ 512) := by
  unfold dataFrameLineOk at h
  split at h
  · next i hi =>
    simp only [Bool.or_eq_true, decide_eq_true_eq] at h
    rw [hi]
    exact ⟨rfl, fun hk' => h.resolve_left (by omega)⟩
  · exact absurd (of_decide_eq_true h) (by omega)

theorem dataFrameLineOk_of_slot {i : Nat} (hseq : s.ctl.seq = .frame i) (hi : i ≤ 512) (k : Nat) :
    dataFrameLineOk k s = true := by
  simp only [dataFrameLineOk, hseq, Bool.or_eq_true, decide_eq_true_eq]
  exact .inr hi

theorem dataFrameLines_keeps (h : At .dataFrame k s) : (dataFrameLines k s).Keeps .dataFrame k := by
  have hs := h.settled_of_plain rfl
  have hr := h.controller rfl
  have hline : dataFrameLineOk k s = true := h.stands.line
  unfold dataFrameLines
  dsimp only
  split
  case h_1 =>
    exact keeps_call (h.stands.congr rfl (dataFrameLineOk_of_le le_rfl s)) rfl (enters_of_role hr rfl rfl rfl) hs
  case h_2 => exact h.goto_dataFrame rfl rfl
  case h_3 =>
    obtain ⟨hseq, -⟩ := slot_of_dataFrameLineOk hline le_rfl
    split
    · next hle =>
      have hmax := hs.data.max
      simp only [maxOk, Bool.and_eq_true] at hmax
      have hlt := (validSlot_iff.1 hmax.2).2
      exact h.goOn_plain hs rfl (dataFrameLineOk_of_slot hseq (hle.trans hlt) 3) rfl nofun
    · have hret : At .dataFrame 0 (s.goto .boundary) := h.goto_dataFrame rfl rfl
      exact hret.ret (hs.goto rfl) rfl ⟨nofun, nofun, nofun⟩
  case h_4 =>
    obtain ⟨hseq, hslot⟩ := slot_of_dataFrameLineOk hline (by decide)
    rw [if_pos (show s.ctl.seq.slot < Config.nSlot from Nat.lt_succ_of_le (hslot le_rfl))]
    exact keeps_call (h.stands.congr rfl (dataFrameLineOk_of_slot hseq (hslot le_rfl) 4)) rfl
      (enters_of_role hr rfl rfl rfl) hs
  case h_5 =>
    obtain ⟨hseq, hslot⟩ := slot_of_dataFrameLineOk hline (by decide)
    exact keeps_call (h.stands.congr rfl (dataFrameLineOk_of_slot hseq (hslot (by decide)) 5)) rfl
      (enters_of_role hr rfl rfl rfl) hs
  case h_6 =>
    obtain ⟨-, hslot⟩ := slot_of_dataFrameLineOk hline (by grind)
    have hle : s.ctl.seq.slot ≤ 512 := hslot (by grind)
    refine h.goto_dataFrame ?_ rfl
    simpa [seqOk, Config.nSlot] using Nat.lt_succ_of_le hle

end

/-! ### `POLL_RANGE` (R191) -/

section
variable {k mn mx : Nat} {s : State}

theorem polledRange_of_at (h : At (.pollRange mn mx) k s) : polledRange mn mx = true := by
  have hline : pollRangeLineOk mn mx k s = true := h.stands.line
  simp only [pollRangeLineOk, Bool.and_eq_true] at hline
  exact hline.1

/-- Past its first line a poll stands at a stage that fits the line. -/
theorem stage_of_at (h : At (.pollRange mn mx) k s) (hk : k ≠ 0) :
    ∃ stage, s.ctl.seq = .poll mn mx stage ∧ stageAt k stage = true := by
  have hline : pollRangeLineOk mn mx k s = true := h.stands.line
  simp only [pollRangeLineOk, Bool.and_eq_true] at hline
  obtain ⟨-, hseq⟩ := hline
  split at hseq
  · next mn' mx' stage hstage =>
    simp only [Bool.or_eq_true, Bool.and_eq_true, decide_eq_true_eq] at hseq
    obtain ⟨⟨rfl, rfl⟩, hat⟩ := hseq.resolve_left hk
    exact ⟨stage, hstage, hat⟩
  · exact absurd (of_decide_eq_true hseq) hk

theorem stands_pollRange (h : At (.pollRange mn mx) k s) {k' : Nat} {stage : PollStage}
    (hat : stageAt k' stage = true) : Stands (.pollRange mn mx) k' (s.goto (.poll mn mx stage)) := by
  have hr := polledRange_of_at h
  refine ⟨h.stands.role, h.stands.wf, ?_, h.stands.under.goto_poll hr stage⟩
  simp [lineOk, pollRangeLineOk, hr, hat]

theorem settled_goto_poll (h : At (.pollRange mn mx) k s) {stage : PollStage} (hok : stageOk stage = true) :
    Settled (s.goto (.poll mn mx stage)) := by
  refine (h.settled_of_plain rfl).goto ?_
  simp [seqOk, polledRange_of_at h, hok]

theorem At.goto_poll (h : At (.pollRange mn mx) k s) {k' : Nat} {stage : PollStage} (hok : stageOk stage = true)
    (hat : stageAt k' stage = true) : At (.pollRange mn mx) k' (s.goto (.poll mn mx stage)) :=
  have hs := settled_goto_poll h hok
  ⟨hs.data, stands_pollRange h hat, nofun, hs.tuned rfl⟩

theorem pollRangeLineOk_of_stage (h : At (.pollRange mn mx) k s) {k' : Nat} {stage : PollStage} {s' : State}
    (hseq : s'.ctl.seq = .poll mn mx stage) (hat : stageAt k' stage = true) :
    lineOk s' (.pollRange mn mx) k' = true := by
  simp [lineOk, pollRangeLineOk, polledRange_of_at h, hseq, hat]

/-- The lines of the window are all of one stage. -/
theorem stageAt_of_le {k' : Nat} {stage : PollStage} (hat : stageAt k stage = true) (hk : 6 ≤ k)
    (hk' : 6 ≤ k') : stageAt k' stage = true := by
  cases stage <;> simp_all [stageAt] <;> omega

theorem pollRangeLines_keeps (h : At (.pollRange mn mx) k s) :
    (pollRangeLines mn mx k s).Keeps (.pollRange mn mx) k := by
  have hs := h.settled_of_plain rfl
  have hr := h.controller rfl
  have hwindow {k' : Nat} {s' : State} (hk : 6 ≤ k) (hk' : 6 ≤ k') (hseq : s'.ctl.seq = s.ctl.seq) :
      lineOk s' (.pollRange mn mx) k' = true := by
    obtain ⟨stage, hstage, hat⟩ := stage_of_at h (by omega)
    exact pollRangeLineOk_of_stage h (hseq.trans hstage) (stageAt_of_le hat hk hk')
  unfold pollRangeLines
  dsimp only
  split
  case h_1 =>
    exact keeps_call (stands_pollRange h rfl) rfl (enters_of_role hr rfl rfl rfl) (settled_goto_poll h rfl)
  case h_2 => exact h.goto_poll rfl rfl
  case h_3 =>
    obtain ⟨stage, hseq, hat⟩ := stage_of_at h (by decide)
    have hat' : stageAt 3 stage = true := by cases stage <;> simp_all [stageAt]
    exact keeps_call (h.stands.congr rfl (pollRangeLineOk_of_stage h hseq hat')) rfl
      (enters_of_role hr rfl rfl rfl) hs
  case h_4 =>
    obtain ⟨stage, hseq, hat⟩ := stage_of_at h (by decide)
    split
    · next hlt => exact h.goto_poll (by simp [stageOk]; omega) rfl
    · exact h.goto_poll rfl rfl
  case h_5 =>
    obtain ⟨stage, hseq, hat⟩ := stage_of_at h (by decide)
    have hat' : stageAt 5 stage = true := by cases stage <;> simp_all [stageAt]
    exact keeps_call (h.stands.congr rfl (pollRangeLineOk_of_stage h hseq hat')) rfl
      (enters_of_role hr rfl rfl rfl) hs
  case h_6 => exact h.goto_poll rfl rfl
  case h_7 =>
    split
    · exact h.goOn_plain (hs.congr rfl) rfl (hwindow (by decide) (by decide) rfl) rfl nofun
    · next c _ =>
      exact keeps_call (h.stands.congr rfl (hwindow (by decide) (by decide) rfl)) (by simp [mayCall, format_rx])
        (enters_rx c _) (hs.congr rfl)
  case h_8 =>
    split
    · exact h.ret hs rfl ⟨nofun, nofun, nofun⟩
    · exact h.goOn_plain hs rfl (hwindow (by decide) (by decide) rfl) rfl nofun
  case h_9 =>
    exact h.goOn_plain hs rfl (hwindow (by decide) (by decide) rfl) rfl nofun
  case h_10 =>
    split
    · next hlt => exact h.goto_poll (by simp [stageOk]; omega) rfl
    · exact h.goOn_plain hs rfl (hwindow (by decide) (by decide) rfl) rfl nofun
  case h_11 => exact h.ret (hs.congr rfl) rfl ⟨nofun, nofun, nofun⟩

end

end Sys2Proof.Machine

/-! SUPPORT. Lines that keep the invariant: `DISCOVER`, whose lines change the range and the list (spec
42_discovery.md R194 to R199). -/

namespace Sys2Proof.Machine

/-! ### `DISCOVER` (R194 to R199) -/

section
variable {k k' : Nat} {s s' : State}

/-- The list with its first `n` addresses discovered. -/
theorem listOk_iff : listOk s = true ↔
    s.ctl.dlCount ≤ 10 ∧ ∀ n < s.ctl.dlCount, ∃ a, Memory.lookup s.ctl.dl n = some a ∧ validSlot a = true := by
  simp only [listOk, Bool.and_eq_true, decide_eq_true_eq, List.all_eq_true, List.mem_range]
  refine and_congr_right fun _ => forall₂_congr fun n _ => ?_
  cases Memory.lookup s.ctl.dl n <;> simp

theorem DataOk.setCount (h : DataOk s) {n : Nat}
    (hlist : listOk { s with ctl := { s.ctl with dlCount := n } } = true) :
    DataOk { s with ctl := { s.ctl with dlCount := n } } := by
  obtain ⟨h1, h2, -, h4, h5, h6, h7, h8, h9⟩ := h
  exact ⟨h1, h2, hlist, h4, h5, h6, h7, h8, h9⟩

/-- The entry past the last discovered one can be written. -/
theorem DataOk.listWrite (h : DataOk s) (hcount : s.ctl.dlCount < Config.listCap) (a : Addr) :
    DataOk (s.listWrite s.ctl.dlCount a) := by
  obtain ⟨h1, h2, h3, h4, h5, h6, h7, h8, h9⟩ := h
  refine ⟨?_, h2, ?_, h4, h5, h6, h7, h8, h9⟩
  · simp only [memoriesOk, Bool.and_eq_true] at h1 ⊢
    exact ⟨h1.1, listWrite_wf hcount h1.2⟩
  · rw [listOk_iff] at h3 ⊢
    refine ⟨h3.1, fun n hn => ?_⟩
    have hne : n ≠ s.ctl.dlCount := Nat.ne_of_lt hn
    rw [listWrite_ctl_dl, listBlank, Memory.lookup_write_none, if_neg hne]
    exact h3.2 n hn

theorem Settled.setCount_zero (hs : Settled s) : Settled { s with ctl := { s.ctl with dlCount := 0 } } :=
  hs.of_data (hs.data.setCount (listOk_iff.2 ⟨Nat.zero_le _, fun _ h => absurd h (Nat.not_lt_zero _)⟩)) rfl

theorem Settled.setCount_succ (hs : Settled s) {a : Addr} (hcount : s.ctl.dlCount < 10)
    (hlast : Memory.lookup s.ctl.dl s.ctl.dlCount = some a) (ha : validSlot a = true) :
    Settled { s with ctl := { s.ctl with dlCount := s.ctl.dlCount + 1 } } := by
  refine hs.of_data (hs.data.setCount (listOk_iff.2 ⟨hcount, fun n hn => ?_⟩)) rfl
  rcases Nat.lt_succ_iff_lt_or_eq.1 hn with hlt | rfl
  · exact (listOk_iff.1 hs.data.list).2 n hlt
  · exact ⟨a, hlast, ha⟩

theorem discoverLineOk_of_le (hk : k ≤ 2) (s : State) : discoverLineOk k s = true := by
  obtain rfl | rfl | rfl : k = 0 ∨ k = 1 ∨ k = 2 := by omega
  all_goals simp [discoverLineOk]

/-- The search stands at a range that the census forms, below 512 past the loop's test. -/
theorem census_of_discoverLineOk (h : discoverLineOk k s = true) (hk : 5 ≤ k) :
    censusRange s.ctl.seq.range.1 s.ctl.seq.range.2 = true ∧ (6 ≤ k → s.ctl.seq.range.1 ≤ 512) ∧
      (k ≠ 7 → s.ctl.seq = .disc .inner s.ctl.seq.range.1 s.ctl.seq.range.2) := by
  simp only [discoverLineOk, Bool.and_eq_true, Bool.or_eq_true, decide_eq_true_eq] at h
  obtain ⟨⟨hrange, hmn⟩, -⟩ := h
  rw [if_neg (by omega), if_neg (by omega), Bool.and_eq_true] at hrange
  obtain ⟨hcensus, hpos⟩ := hrange
  refine ⟨hcensus, fun hk' => hmn.resolve_left (by omega), fun hk' => ?_⟩
  split at hpos
  · next hseq => rw [hseq]; rfl
  · exact absurd (of_decide_eq_true hpos) hk'
  · cases hpos

/-- What the lines that append an entry, and the one that halves the range, ask besides (R195, R196). -/
structure LastOk (k mn mx : Nat) (s : State) : Prop where
  count : k = 12 ∨ k = 13 → s.ctl.dlCount < 10
  entry : k = 13 → Memory.lookup s.ctl.dl s.ctl.dlCount = some (BitVec.ofNat 10 mn)
  halves : k = 14 → mn < mx

theorem lastOk_of_ne {mn mx : Nat} (hk : k < 12 ∨ 14 < k) : LastOk k mn mx s :=
  ⟨by omega, by omega, by omega⟩

theorem lastOk_of_discoverLineOk (h : discoverLineOk k s = true) :
    LastOk k s.ctl.seq.range.1 s.ctl.seq.range.2 s := by
  simp only [discoverLineOk, Bool.and_eq_true] at h
  obtain ⟨-, hlast⟩ := h
  refine ⟨?_, ?_, ?_⟩
  · rintro (rfl | rfl)
    · exact of_decide_eq_true hlast
    · exact of_decide_eq_true (Bool.and_eq_true_iff.1 hlast).1
  · rintro rfl
    exact of_decide_eq_true (Bool.and_eq_true_iff.1 hlast).2
  · rintro rfl
    exact of_decide_eq_true hlast

theorem discoverLineOk_of_inner {mn mx : Nat} (hseq : s.ctl.seq = .disc .inner mn mx)
    (hc : censusRange mn mx = true) (hk : 5 ≤ k) (hmn : 6 ≤ k → mn ≤ 512) (hlast : LastOk k mn mx s) :
    discoverLineOk k s = true := by
  obtain ⟨hcount, hentry, hhalves⟩ := hlast
  have hmn' : k ≤ 5 ∨ mn ≤ Config.nAddr := (Nat.lt_or_ge 5 k).symm.imp id hmn
  simp only [discoverLineOk, hseq, SeqPos.range, hc, Bool.and_eq_true, Bool.or_eq_true, decide_eq_true_eq]
  refine ⟨⟨by rw [if_neg (by omega), if_neg (by omega)]; rfl, hmn'⟩, ?_⟩
  split
  · exact decide_eq_true (hcount (.inl rfl))
  · exact Bool.and_eq_true_iff.2 ⟨decide_eq_true (hcount (.inr rfl)), decide_eq_true (hentry rfl)⟩
  · exact decide_eq_true (hhalves rfl)
  · rfl

theorem At.goOn_discover (h : At .discover k s) (hs : Settled s') (hplace : s'.place = s.place)
    (hline : discoverLineOk k' s' = true) : At .discover k' s' := h.goOn_plain hs hplace hline rfl nofun

theorem At.goto_discover (h : At .discover k s) {p : SeqPos} (hp : seqOk (s.goto p) = true)
    (hline : discoverLineOk k' (s.goto p) = true) : At .discover k' (s.goto p) :=
  have hs := (h.settled_of_plain rfl).goto hp
  ⟨hs.data, ⟨h.stands.role, rfl, hline, h.stands.under.goto_of_cycle (.inr rfl) p⟩, nofun, hs.tuned rfl⟩

/-- The end of a run is a position of `CYCLE` again (log 10). -/
theorem At.ret_discover (h : At .discover k s) : Safe (s.goto .boundary) = true :=
  (h.stands.under.goto_of_cycle (.inr rfl) .boundary).safe_of_return (ne_loopInstr (by simp) (by simp) _)
    ((h.settled_of_plain rfl).goto rfl) fun _ => rfl

theorem At.goto_inner (h : At .discover k s) {mn mx : Nat} (hc : censusRange mn mx = true) :
    At .discover 5 (s.goto (.disc .inner mn mx)) :=
  h.goto_discover hc (discoverLineOk_of_inner rfl hc le_rfl (by omega) (lastOk_of_ne (.inl (by decide))))

/-- Between its polls the search stands at a range that the census forms. -/
theorem At.search (h : At .discover k s) (hk : 6 ≤ k) (hpoll : k ≠ 7) (hk' : 5 ≤ k')
    (hlast : LastOk k' s.ctl.seq.range.1 s.ctl.seq.range.2 s) : At .discover k' s := by
  obtain ⟨hc, hmn, hseq⟩ := census_of_discoverLineOk h.stands.line (by omega)
  exact h.goOn_discover (h.settled_of_plain rfl) rfl
    (discoverLineOk_of_inner (hseq hpoll) hc hk' (fun _ => hmn hk) hlast)

theorem enters_pollRange {mn mx : Nat} (hr : s.par.role = .controller) (hc : censusRange mn mx = true)
    (hmn : mn ≤ 512) : Enters (.pollRange mn mx) s := by
  obtain ⟨hle, -⟩ := Proofs.censusRangesHalveOrAdvance mn mx hc hmn
  refine enters_of_role hr rfl ?_ ?_
  · simp [WellFormed, one_le_of_censusRange hc, hle]
  · simp only [lineOk, pollRangeLineOk, polledRange, hc, Bool.and_eq_true, decide_eq_true_eq]
    refine ⟨⟨trivial, hmn⟩, ?_⟩
    split <;> rfl

theorem discoverLines_keeps (h : At .discover k s) : (discoverLines k s).Keeps .discover k := by
  have hs := h.settled_of_plain rfl
  have hr := h.controller rfl
  have hline : discoverLineOk k s = true := h.stands.line
  have hto (k' : Nat) (hk : 6 ≤ k := by decide) (hpoll : k ≠ 7 := by decide) (hk' : 5 ≤ k' := by decide)
      (hlast : k' < 12 ∨ 14 < k' := by decide) : At .discover k' s := h.search hk hpoll hk' (lastOk_of_ne hlast)
  unfold discoverLines
  dsimp only
  split
  case h_1 => exact h.goOn_discover hs.setCount_zero rfl (discoverLineOk_of_le (by decide) _)
  case h_2 => exact h.goOn_discover (hs.congr rfl) rfl (discoverLineOk_of_le (by decide) _)
  case h_3 =>
    have hat : At .discover 3 (s.goto (.disc .outer 1 512)) := h.goto_discover rfl rfl
    exact keeps_call hat.stands rfl (enters_pollRange hr (by decide) (by decide)) (hs.goto rfl)
  case h_4 =>
    have hrange : s.ctl.seq.range = (1, 512) := by
      simp [discoverLineOk] at hline
      exact Prod.ext hline.1 hline.2
    rw [hrange]
    split
    · exact h.goto_discover rfl rfl
    · exact h.ret_discover
  case h_5 => exact h.goto_inner (by decide)
  case h_6 =>
    obtain ⟨hc, -, hseq⟩ := census_of_discoverLineOk hline le_rfl
    refine keeps_branch (fun _ => h.goOn_discover hs rfl (discoverLineOk_of_le le_rfl s))
      fun hmn => h.goOn_discover hs rfl ?_
    exact discoverLineOk_of_inner (hseq (by decide)) hc (by decide) (fun _ => Nat.le_of_not_lt hmn)
      (lastOk_of_ne (.inl (by decide)))
  case h_7 =>
    obtain ⟨hc, hmn, -⟩ := census_of_discoverLineOk hline (by decide)
    exact keeps_call (hto 7).stands (decide_eq_true rfl) (enters_pollRange hr hc (hmn le_rfl)) hs
  case h_8 =>
    obtain ⟨hc, hmn, -⟩ := census_of_discoverLineOk hline (by decide)
    have hat {k' : Nat} (hk : 5 ≤ k') (hlast : k' < 12) :
        At .discover k' (s.goto (.disc .inner s.ctl.seq.range.1 s.ctl.seq.range.2)) :=
      h.goto_discover hc <|
        discoverLineOk_of_inner rfl hc hk (fun _ => hmn (by decide)) (lastOk_of_ne (.inl hlast))
    exact keeps_branch (fun _ => hat (by decide) (by decide)) fun _ => hat (by decide) (by decide)
  case h_9 =>
    refine keeps_branch (fun hlt => ?_) fun _ => hto 9
    exact h.search (by decide) (by decide) (by decide) ⟨by omega, by omega, fun _ => hlt.2⟩
  case h_10 => exact keeps_branch (fun _ => hto 15) fun _ => hto 5
  case h_11 =>
    have hcount : s.ctl.dlCount ≤ 10 := (listOk_iff.1 hs.data.list).1
    refine keeps_branch (fun _ => hto 11) fun hne => ?_
    have hlt : s.ctl.dlCount < 10 := Nat.lt_of_le_of_ne hcount hne
    exact h.search (by decide) (by decide) (by decide) ⟨fun _ => hlt, by omega, by omega⟩
  case h_12 =>
    have hat : At .discover 0 { s with ctl := { s.ctl with dlOverflow := true } } :=
      h.goOn_discover (hs.congr rfl) rfl (discoverLineOk_of_le (by decide) _)
    exact hat.ret_discover
  case h_13 =>
    obtain ⟨hc, hmn, hseq⟩ := census_of_discoverLineOk hline (by decide)
    have hcount : s.ctl.dlCount < Config.listCap := (lastOk_of_discoverLineOk hline).count (.inl rfl)
    rw [if_pos hcount]
    refine h.goOn_discover (hs.of_data (hs.data.listWrite hcount _) rfl) rfl ?_
    refine discoverLineOk_of_inner (hseq (by decide)) hc (by decide) (fun _ => hmn (by decide))
      ⟨fun _ => hcount, fun _ => ?_, by omega⟩
    exact (Memory.lookup_write_none ..).trans (if_pos rfl)
  case h_14 =>
    obtain ⟨hc, hmn, -⟩ := census_of_discoverLineOk hline (by decide)
    obtain ⟨hcount, hentry, -⟩ := lastOk_of_discoverLineOk hline
    have hone := one_le_of_censusRange hc
    have hmn := hmn (by decide)
    have hvalid : validSlot (BitVec.ofNat 10 s.ctl.seq.range.1) = true :=
      validSlot_iff.2 (by rw [BitVec.toNat_ofNat, Nat.mod_eq_of_lt (by omega)]; exact ⟨hone, hmn⟩)
    exact h.goOn_discover (hs.setCount_succ (hcount (.inr rfl)) (hentry rfl) hvalid) rfl
      (discoverLineOk_of_le le_rfl _)
  case h_15 =>
    obtain ⟨hc, hmn, -⟩ := census_of_discoverLineOk hline (by decide)
    obtain ⟨-, -, hhalves, -⟩ := Proofs.censusRangesHalveOrAdvance _ _ hc (hmn (by decide))
    exact h.goto_inner (hhalves ((lastOk_of_discoverLineOk hline).halves rfl)).2
  case h_16 =>
    obtain ⟨hc, hmn, -⟩ := census_of_discoverLineOk hline (by grind)
    obtain ⟨-, -, -, -, -, -, hnext⟩ := Proofs.censusRangesHalveOrAdvance _ _ hc (hmn (by grind))
    exact h.goto_inner hnext

end

end Sys2Proof.Machine

/-! SUPPORT. One step keeps the invariant: the operation that runs, the requests and handlers between two lines
(spec 60_exceptions.md R300 to R306), reset, and the obligations on `Safe`. -/

namespace Sys2Proof.Machine

/-! ### An operation that runs -/

theorem lines_keep {i : Instr} {lines : Nat → State → LineEnd} (hl : lines? i = some lines)
    {k : Nat} {s : State} (h : At i k s) : (lines k s).Keeps i k := by
  cases i <;> cases hl
  case rxBreak => exact receiveLines_keeps (c := ⟨0, true⟩) h
  case rxStrayFe b =>
    have hb : b ≠ 0 := of_decide_eq_true h.stands.wf
    rw [← instr_of_stray hb] at h ⊢
    exact receiveLines_keeps h
  case rxData b =>
    rw [← instr_of_data b] at h ⊢
    exact receiveLines_keeps h
  case scData => exact scDataLines_keeps h
  case scPoll => exact scPollLines_keeps h
  case scOther => exact scOtherLines_keeps h
  case cmdSet => exact setLines_keeps h
  case cmdGet => exact getLines_keeps h
  case cmdMax => exact maxLines_keeps h
  case cmdOn => exact outputLines_keeps (.inl rfl) true h
  case cmdOff => exact outputLines_keeps (.inr rfl) false h
  case cmdPoll => exact pollLines_keeps h
  case cmdClear => exact clearLines_keeps h
  case cmdEnq => exact enqLines_keeps h
  case sendBreak => exact sendBreakLines_keeps h
  case putSlot => exact putSlotLines_keeps h
  case releaseDe => exact releaseDeLines_keeps h
  case bareBreak => exact bareBreakLines_keeps h
  case dataFrame => exact dataFrameLines_keeps h
  case checkpoint => exact checkpointLines_keeps h
  case cycle => exact cycleLines_keeps h
  case pollRange => exact pollRangeLines_keeps h
  case discover => exact discoverLines_keeps h
  case fsStep => exact fsStepLines_keeps h

/-- The answer is a next state, and that meets the invariant. -/
structure Continues (r : Result) : Prop where
  next : ∃ t, r = .next t
  safe : ∀ t, r = .next t → Safe t = true

theorem continues_next {t : State} (h : Safe t = true) : Continues (.next t) :=
  ⟨⟨t, rfl⟩, fun _ ht => by cases ht; exact h⟩

/-- Started where it stands, an operation that has lines keeps the invariant, and none of its lines stops. -/
theorem At.continues {i : Instr} {lines : Nat → State → LineEnd} (hl : lines? i = some lines) {s : State}
    (h : At i s.line s.started) : Continues (exec i s) := by
  have hkeeps {k : Nat} {u : State} {e : LineEnd} (hu : At i k u) (he : lines k u = e) : e.Keeps i k :=
    he ▸ lines_keep hl hu
  have hi : i.existsIn s.par.role = true := h.stands.role
  rw [exec_of_lines hl, if_pos hi]
  refine ⟨?_, fun t ht => ?_⟩
  · exact exists_next_of_perform (P := At i) (fun _ _ _ _ => hkeeps) (fun _ _ _ => hkeeps) h
  · exact runLines_induct (P := At i) (Q := fun u => Safe u = true) (fun _ _ => At.safe) (fun _ _ _ _ => hkeeps)
      (fun _ _ _ hu he => (hkeeps hu he : At i _ _).safe) (fun _ _ _ _ _ => hkeeps) (fun _ _ _ _ => hkeeps)
      (fun _ _ _ => hkeeps) _ _ _ _ t h ht

/-! ### What leaves the calls alone -/

/-- What the lines of the operations called read. -/
def State.standing (s : State) := (s.ctl.seq, s.ctl.dl, s.ctl.dlCount, s.dev.slot, s.dev.pollIdx)

theorem lineOk_congr {s s' : State} (h : s'.standing = s.standing) (i : Instr) (k : Nat) :
    lineOk s' i k = lineOk s i k := by
  simp only [State.standing, Prod.mk.injEq] at h
  obtain ⟨hseq, hdl, hcount, hslot, hidx⟩ := h
  simp only [lineOk, cycleLineOk, dataFrameLineOk, pollRangeLineOk, discoverLineOk, deviceLineOk, hseq,
    hdl, hcount, hslot, hidx]

/-- What is executed next is started where it stands. -/
theorem At.started {i : Instr} {k : Nat} {s : State} (h : At i k s) (n : Nat) :
    At i k (State.started { s with line := n }) := by
  have hvalues : (State.started { s with line := n }).values = s.values := by
    simp [State.values, h.data.line]
  exact ⟨h.data.congr hvalues, h.stands.congr rfl ((lineOk_congr rfl i k).trans h.stands.line), h.returned,
    h.tuned.congr rfl⟩

/-- Every call stands for an operation. -/
theorem instr_of_callsOk {s : State} {c : Call} {below : List Call} (h : callsOk s (c :: below) = true) :
    ∃ i, c.instr = some i := by
  cases hi : c.instr with
  | some i => exact ⟨i, rfl⟩
  | none => simp [callsOk, hi] at h

/-- `s'` comes from `s` by something that can happen between any two lines: a request, or a handler (R306). -/
structure Between (s s' : State) : Prop where
  place : s'.place = s.place
  standing : s'.standing = s.standing
  data : DataOk s → DataOk s'
  tuned : ∀ i k, Tuned i k s → Tuned i k s'

theorem Between.idle {s s' : State} (h : Between s s') (hi : Idle s) : Idle s' :=
  (tuned_iff_idle (i := .cycle) (k := 0) rfl rfl).1 (h.tuned _ _ ((tuned_iff_idle rfl rfl).2 hi))

theorem Between.safe {s s' : State} (h : Between s s') (hs : Safe s = true) : Safe s' = true := by
  obtain ⟨hops, hrole, hseq⟩ : s'.ops = s.ops ∧ s'.par.role = s.par.role ∧ s'.ctl.seq = s.ctl.seq := by
    simpa only [State.place, Prod.mk.injEq] using h.place
  cases ho : s.ops with
  | nil =>
    obtain ⟨hdata, hidle⟩ := (safe_iff_of_none_called ho).1 hs
    exact (safe_iff_of_none_called (hops.trans ho)).2 ⟨h.data hdata, h.idle hidle⟩
  | cons c below =>
    obtain ⟨i, hi⟩ := instr_of_callsOk (ho ▸ callsOk_of_safe hs)
    have hat := (safe_iff_of_called ho hi).1 hs
    have hdata : DataOk s := hat.data.congr rfl
    have htuned : Tuned i c.line s := hat.tuned.congr rfl
    have hline : lineOk { s' with ops := below } i c.line = true :=
      (lineOk_congr h.standing i c.line).trans hat.stands.line
    refine (safe_iff_of_called (hops.trans ho) hi).2 ⟨(h.data hdata).congr rfl, hat.stands.congr ?_ hline, ?_,
      (h.tuned i c.line htuned).congr rfl⟩
    · simp only [State.place, hrole, hseq]
    · exact hseq ▸ hat.returned

/-! ### The requests and the handlers -/

theorem between_atBoundary (s : State) : Between s s.atBoundary where
  place := rfl
  standing := rfl
  data h := by
    obtain ⟨h1, h2, h3, h4, h5, h6, h7, h8, h9⟩ := h
    refine ⟨h1, h2, h3, h4, h5, h6, h7, ?_, h9⟩
    simp only [requestsOk, State.atBoundary, State.raise] at h8 ⊢
    cases hr : s.par.role <;> simp_all [State.drawEvent]
  tuned _ _ h := h.congr rfl

theorem between_of_exec_tick {s t : State} (h : exec .tick s = .next t) : Between s t := by
  cases h
  rw [(ticked_tickCounters s).frame]
  exact ⟨rfl, rfl, fun h => h.congr rfl, fun _ _ h => h.congr rfl⟩

/-- A drain leaves `tail`, or advances it past a byte held, and computes `full` anew (R271). -/
theorem exists_drained (s : State) : ∃ t console, s.drained =
      s.withConsole { s.ctl with tail := t, full := ringFull s.ctl.head t, pendDrain := false } console ∧
    (t = s.ctl.tail ∨ s.ctl.head ≠ s.ctl.tail ∧ t = s.ctl.tail + 1) := by
  rw [drained_eq]
  split
  · exact ⟨s.ctl.tail, _, rfl, .inl rfl⟩
  · next hne => exact ⟨s.ctl.tail + 1, _, rfl, .inr ⟨hne, rfl⟩⟩

section
variable {s s' : State} {t : Byte}
  (hctl : s'.ctl = { s.ctl with tail := t, full := ringFull s.ctl.head t, pendDrain := false })
  (ht : t = s.ctl.tail ∨ s.ctl.head ≠ s.ctl.tail ∧ t = s.ctl.tail + 1)
include hctl ht

/-- The bytes that a drain leaves were held before. -/
theorem ringWritten_drained (h : ringWritten s = true) : ringWritten s' = true := by
  simp only [ringWritten, hctl, List.all_eq_true, List.mem_range] at h ⊢
  rcases ht with rfl | ⟨hne, rfl⟩
  · exact h
  · intro n hn
    rw [add_one_add_ofNat]
    refine h (n + 1) ?_
    rw [ringCount_tail_succ hne]
    exact Nat.succ_lt_succ hn

/-- A drain between two steps of `ENQUEUE` leaves the ring as the next one needs it. -/
theorem ringFits_drained {k : Nat} (h : RingFits k s) : RingFits k s' := by
  have hroom : Room s' := by
    simp only [Room, hctl, ringFull, decide_eq_true_eq]
    exact em _
  have hfree (hf : s.ctl.head + 1 ≠ s.ctl.tail) : s'.ctl.head + 1 ≠ s'.ctl.tail := by
    rw [hctl]
    rcases ht with rfl | ⟨hne, rfl⟩
    · exact hf
    · simpa using hne
  have hold (u : Byte) (hf : ringCount s.ctl.tail u ≤ ringCount s.ctl.head u) :
      ringCount s'.ctl.tail u ≤ ringCount s'.ctl.head u := by
    rw [hctl]
    rcases ht with rfl | ⟨hne, rfl⟩
    · exact hf
    · unfold ringCount at hf ⊢
      bv_omega
  have henq : s'.ctl.enq = s.ctl.enq := by rw [hctl]
  have hbyte : Memory.lookup s'.ctl.rb s'.ctl.head.toNat = Memory.lookup s.ctl.rb s.ctl.head.toNat := by rw [hctl]
  simp only [RingFits, henq, hbyte] at h ⊢
  cases he : s.ctl.enq with
  | none => exact hroom
  | some c =>
    rw [he] at h
    obtain ⟨hline, hfits, hhead⟩ := h
    refine ⟨hline, ?_, hhead⟩
    unfold EnqCall.Fits at hfits ⊢
    split at hfits
    · exact hroom
    · exact hfree hfits
    · exact hfree hfits
    · trivial
    · exact hold c.t hfits

end

theorem between_drained (s : State) : Between s s.drained := by
  obtain ⟨t, console, hs, ht⟩ := exists_drained s
  rw [hs]
  refine ⟨rfl, rfl, fun h => ?_, fun i k h => ?_⟩
  · obtain ⟨h1, h2, h3, h4, h5, h6, h7, h8, h9⟩ := h
    exact ⟨h1, h2, h3, h4, h5, ringWritten_drained rfl ht h6, h7, Bool.or_true _, h9⟩
  · exact ⟨h.baud, h.enq, ringFits_drained rfl ht h.ring⟩

/-! ### One step -/

theorem dataOk_of_safe {s : State} (hs : Safe s = true) : DataOk s := by
  simp only [Safe, ringOk, Bool.and_eq_true, decide_eq_true_eq] at hs
  obtain ⟨⟨⟨⟨⟨⟨⟨⟨⟨⟨⟨⟨h1, h2⟩, h3⟩, h4⟩, -⟩, -⟩, h7⟩, -⟩, -⟩, h10, -⟩, h12⟩, h13⟩, h14⟩ := hs
  exact ⟨h1, h2, h3, h4, h7, h10, h12, h13, h14⟩

/-- Reset leads into the invariant, the parameters being in range and the wire so far being as R91 has it. -/
theorem safe_resetWith {s : State} (hp : s.par.wf = true) (hwire : wireOk s = true) (env : Env) (n : Nat) :
    Safe (State.resetWith s.par env s.out n) = true := by
  have hmax : validSlot s.par.maxAtReset = true := hp
  refine (safe_iff_of_none_called rfl).2
    ⟨⟨rfl, ?_, rfl, rfl, rfl, ?_, rfl, Bool.or_true _, hwire⟩, rfl, rfl, .inr ?_⟩
  · exact Bool.and_eq_true_iff.2 ⟨hp, hmax⟩
  · simp [ringWritten, State.resetWith, Controller.atReset, ringCount]
  · simp [State.resetWith, Controller.atReset]

/-- What the main loop goes on with has lines: nothing calls a handler or `RESET`. -/
theorem exists_lines_of_calledBy {s : State} {i : Instr} {below : List Call} (h : CalledBy s i below) :
    ∃ lines, lines? i = some lines := by
  cases hl : lines? i with
  | some lines => exact ⟨lines, rfl⟩
  | none =>
    cases below with
    | nil =>
      cases h
      unfold loopInstr at hl
      split at hl <;> cases hl
    | cons d below =>
      obtain ⟨caller, -, hcall⟩ := h
      unfold mayCall at hcall
      rcases lines?_eq_none.1 hl with rfl | rfl | rfl <;> split at hcall <;> simp [Instr.format] at hcall

theorem continues_of_called {s : State} {c : Call} {below : List Call} {i : Instr} (hs : Safe s = true)
    (ho : s.ops = c :: below) (hi : decode c.image = .ok i) :
    Continues (exec i { s with ops := below, line := c.line }) := by
  have hinstr : c.instr = some i := by simp only [Call.instr, hi]
  have hat := (safe_iff_of_called ho hinstr).1 hs
  obtain ⟨lines, hl⟩ := exists_lines_of_calledBy hat.stands.under.caller
  exact At.continues hl (hat.started c.line)

theorem continues_of_loop {s : State} (hs : Safe s = true) (ho : s.ops = []) :
    Continues (exec (loopInstr s) s) := by
  obtain ⟨hdata, hidle⟩ := (safe_iff_of_none_called ho).1 hs
  have hcaller : CalledBy s (loopInstr s) s.ops := ho ▸ rfl
  obtain ⟨lines, hl⟩ := exists_lines_of_calledBy hcaller
  have hat : At (loopInstr s) s.line s := by
    rw [hdata.line]
    refine ⟨hdata, ⟨?_, ?_, ?_, hcaller, ho ▸ rfl⟩, nofun, (Settled.mk hdata hidle).tuned ?_⟩ <;>
      cases hr : s.par.role <;> simp [loopInstr, hr] <;> rfl
  exact At.continues hl (hat.started s.line)

/-- An illegal host command is answered and counts as a command that has returned (R100, R168). -/
theorem continues_of_illegal {s : State} {c : Call} {below : List Call} {e : DecodeError} (hs : Safe s = true)
    (ho : s.ops = c :: below) (hi : decode c.image = .error e) (hc : c.image.fmt = .cmd) :
    Continues (illegalCommand { s with ops := below }) := by
  have hinstr : c.instr = some .cmdOn := by simp only [Call.instr, hi, hc, if_true]
  have hat := (safe_iff_of_called ho hinstr).1 hs
  have hr : s.par.role = .controller := hat.controller rfl
  rw [illegalCommand, inRole_of_role (s := { s with ops := below }) _ hr]
  exact continues_next (hat.ret ((hat.settled_of_plain rfl).congr rfl) rfl ⟨nofun, nofun, nofun⟩)

theorem controller_of_pendDrain {s : State} (hs : Safe s = true) (hp : s.ctl.pendDrain = true) :
    s.par.role = .controller := by
  have hreq := (dataOk_of_safe hs).requests
  simpa [requestsOk, hp] using hreq

theorem continues_step {s : State} (hs : Safe s = true) : Continues (step s) := by
  have hu : Safe s.atBoundary = true := (between_atBoundary s).safe hs
  have hfrom := stepFrom s
  generalize step s = r at hfrom
  cases hfrom with
  | reset =>
    have hdata := dataOk_of_safe hs
    have hp : s.par.wf = true := (Bool.and_eq_true_iff.1 hdata.max).1
    exact continues_next (safe_resetWith hp hdata.wire _ _)
  | tick => exact continues_next ((between_of_exec_tick (exec_tick _)).safe hu)
  | drain _ hp =>
    rw [exec_drainOne (controller_of_pendDrain hu hp)]
    exact continues_next ((between_drained _).safe hu)
  | loop _ ho => exact continues_of_loop hu ho
  | called _ ho hd => exact continues_of_called hu ho hd
  | illegal _ ho hd hc => exact continues_of_illegal hu ho hd hc
  | nothing ho hd hc =>
    obtain ⟨i, hi⟩ := instr_of_callsOk (ho ▸ callsOk_of_safe hs)
    simp [Call.instr, hd, hc] at hi

end Sys2Proof.Machine

namespace Sys2Proof.Proofs

open Sys2Proof.Machine

/-- Settles O4: what goes on after a boundary stands at a line that fits, and every line it runs keeps the
invariant. -/
theorem stepKeepsSafe : Obligations.StepKeepsSafe := fun _ t hs h => (continues_step hs).safe t h

/-- Settles O5: no line of the invariant is one that stops, and the operation is one of the role. -/
theorem safeStateNeverStops : Obligations.SafeStateNeverStops := fun _ hs => (continues_step hs).next

/-- Settles O3: of `State.reset`, with nothing called, only the values have to be in order. -/
theorem resetStateIsSafe : Obligations.ResetStateIsSafe :=
  safe_resetWith (s := State.reset) (by decide) rfl Env.quiet 0

end Sys2Proof.Proofs
